-- ==== Sys2Proof/Word.lean ====
section
/-! DEFINITION. The word types of the XSP engine (00_scope R5, R6; 30_encoding R50 to R53): every value the spec
numbers in bits is a bit vector, bit 0 the least significant. -/

namespace Sys2Proof

/-- A 64-bit unsigned integer: a State Word, a DATA or RDATA field, a binary64 bit pattern (R6, R9, R20). -/
abbrev Word := BitVec 64

/-- The 52-bit fraction field of a binary64 pattern, D0's mantissa (R5, R9). -/
abbrev Mantissa := BitVec 52

/-- The 8-bit OP field of a command word (R51). -/
abbrev Opcode := BitVec 8

/-- A whole command word, bit 71 most significant (R50, R51). -/
abbrev CommandWord := BitVec 72

/-- A whole response word, bit 67 most significant (R50, R53). -/
abbrev ResponseWord := BitVec 68

/-- One byte of a listing (R42); the engine itself has no bytes (R41). -/
abbrev Byte := BitVec 8

end Sys2Proof
end

