-- ==== Sys2Proof/Syntax.lean ====
section
/-! DEFINITION. The thirteen commands of the engine (30_encoding R56, spec/opcode_table.json), the names they have in
listings, the reasons the decoder rejects, and the lines of a listing (R59, R60). -/

namespace Sys2Proof

/-- The commands, one constructor per row of the opcode table. A format D command carries its DATA field; a format N
command carries nothing, since its DATA field is ignored (R52). Every term is a command the engine executes: the
operand of a format D command may be any 64-bit value, and an operand outside a codec's domain is an error of the
execution (R81, R83), not of the encoding. -/
inductive Instr where
  | ld0 (data : Word)
  | ld1 (data : Word)
  | rd0
  | rd1
  | rdst
  | clr
  | enc (data : Word)
  | dec (data : Word)
  | step
  | mant
  | dbl
  | out
  | next
deriving DecidableEq, Repr

/-- The names of the thirteen commands (R56). -/
inductive Mnemonic where
  | LD0 | LD1 | RD0 | RD1 | RDST | CLR | ENC | DEC | STEP | MANT | DBL | OUT | NEXT
deriving DecidableEq, Repr

/-- The two command formats (R52): `D` has one 64-bit operand, `N` has none. -/
inductive Format where
  | D | N
deriving DecidableEq, Repr

/-- Why the decoder gives no command, by name. -/
inductive Reject where
  /-- The OP field holds one of the 243 reserved values (R57); the engine answers E_ILLEGAL. -/
  | reservedOpcode (op : Opcode)
  /-- Fewer than the nine bytes of one command (R42); the engine's port never sees part of a command (R43), so this
  concerns listings only. -/
  | partialCommand (bytes : Nat)
deriving DecidableEq, Repr

/-- One line of a listing (R59): a command with its operand as the number its literal writes, or one of the three
pseudo-instructions (R60). -/
inductive Line where
  | command (m : Mnemonic) (operand : Option Nat)
  | seed (a b : Nat)
  | predict (a b : Nat)
  | gen (n : Nat)
deriving DecidableEq, Repr

end Sys2Proof
end

