-- ==== Sys2Proof/Decode.lean ====
section
/-! DEFINITION. The command encoding (30_encoding R50 to R52, R56, R57): the opcode map, the decoder, total on every
72-bit word and rejecting by name, the encoder, and the byte form of listings (20_memory R42). -/

namespace Sys2Proof

/-- The thirteen commands in the order of the opcode map (R56). -/
def Mnemonic.all : List Mnemonic :=
  [.LD0, .LD1, .RD0, .RD1, .RDST, .CLR, .ENC, .DEC, .STEP, .MANT, .DBL, .OUT, .NEXT]

/-- The opcode map (R56). -/
def Mnemonic.opcode : Mnemonic → Opcode
  | .LD0 => 0x01
  | .LD1 => 0x02
  | .RD0 => 0x03
  | .RD1 => 0x04
  | .RDST => 0x05
  | .CLR => 0x06
  | .ENC => 0x10
  | .DEC => 0x11
  | .STEP => 0x20
  | .MANT => 0x30
  | .DBL => 0x31
  | .OUT => 0x32
  | .NEXT => 0x33

/-- The format of each command (R52). -/
def Mnemonic.format : Mnemonic → Format
  | .LD0 | .LD1 | .ENC | .DEC => .D
  | .RD0 | .RD1 | .RDST | .CLR | .STEP | .MANT | .DBL | .OUT | .NEXT => .N

/-- `OP = C[71:64]` (R51). -/
def opField (c : CommandWord) : Opcode := c.extractLsb' 64 8

/-- `DATA = C[63:0]` (R51), taken whole (R54). -/
def dataField (c : CommandWord) : Word := c.extractLsb' 0 64

/-- The command an OP value names, if any: the match is on all eight bits (R56). -/
def Mnemonic.ofOpcode (op : Opcode) : Option Mnemonic :=
  Mnemonic.all.find? fun m => m.opcode == op

/-- The command with this name and DATA field; a format N command drops the field (R52). -/
def Instr.ofParts (m : Mnemonic) (data : Word) : Instr :=
  match m with
  | .LD0 => .ld0 data
  | .LD1 => .ld1 data
  | .RD0 => .rd0
  | .RD1 => .rd1
  | .RDST => .rdst
  | .CLR => .clr
  | .ENC => .enc data
  | .DEC => .dec data
  | .STEP => .step
  | .MANT => .mant
  | .DBL => .dbl
  | .OUT => .out
  | .NEXT => .next

/-- The decoder: the OP field alone selects the command (R52, R56), a reserved OP is rejected (R57). -/
def decode (c : CommandWord) : Except Reject Instr :=
  match Mnemonic.ofOpcode (opField c) with
  | some m => .ok (Instr.ofParts m (dataField c))
  | none => .error (.reservedOpcode (opField c))

/-- The name of a command. -/
def Instr.mnemonic : Instr → Mnemonic
  | .ld0 _ => .LD0
  | .ld1 _ => .LD1
  | .rd0 => .RD0
  | .rd1 => .RD1
  | .rdst => .RDST
  | .clr => .CLR
  | .enc _ => .ENC
  | .dec _ => .DEC
  | .step => .STEP
  | .mant => .MANT
  | .dbl => .DBL
  | .out => .OUT
  | .next => .NEXT

/-- The DATA field of the canonical encoding: the operand for format D, 0 for format N (R52, R59). -/
def Instr.operand : Instr → Word
  | .ld0 data | .ld1 data | .enc data | .dec data => data
  | .rd0 | .rd1 | .rdst | .clr | .step | .mant | .dbl | .out | .next => 0

/-- The word `OP ‖ DATA` (R51, R59). -/
def commandWord (op : Opcode) (data : Word) : CommandWord := op ++ data

/-- The encoder: the canonical word of a command (R52, R59). -/
def encode (i : Instr) : CommandWord := commandWord i.mnemonic.opcode i.operand

/-- The canonical serialisation of a command: nine bytes, the OP byte first, DATA most significant byte first
(R42). -/
def commandBytes (c : CommandWord) : List Byte :=
  [c.extractLsb' 64 8, c.extractLsb' 56 8, c.extractLsb' 48 8, c.extractLsb' 40 8, c.extractLsb' 32 8,
   c.extractLsb' 24 8, c.extractLsb' 16 8, c.extractLsb' 8 8, c.extractLsb' 0 8]

/-- Decodes the first command of a byte listing (R42) and gives the bytes after it. Fewer than nine bytes are no
command (DESIGN CHOICE: rejected by a name of its own, log entry 14). -/
def decodeBytes : List Byte → Except Reject (Instr × List Byte)
  | b0 :: b1 :: b2 :: b3 :: b4 :: b5 :: b6 :: b7 :: b8 :: rest =>
    match decode (b0 ++ b1 ++ b2 ++ b3 ++ b4 ++ b5 ++ b6 ++ b7 ++ b8) with
    | .ok i => .ok (i, rest)
    | .error r => .error r
  | few => .error (.partialCommand few.length)

/-- The command word whose bits are those of `w` below `nbits`, numbered as the opcode table numbers them: the table's
`match` and `mask` are the one 72-bit word itself, OP in bits 71:64 (R51; log entry 6). -/
def tableWord (nbits w : Nat) : CommandWord := BitVec.ofNat 72 (w % 2 ^ nbits)

/-- What the decoder reads from such a word. A number that needs more than 72 bits is no command word. -/
def decodeTableWord (nbits w : Nat) : Option Instr :=
  if w % 2 ^ nbits < 2 ^ 72 then (decode (tableWord nbits w)).toOption else none

end Sys2Proof
end

