-- ==== Sys2Proof/Machine/Operands.lean ====
section
/-! DEFINITION. How a command's DATA field is read and how a 52-bit result is placed in RDATA (30_encoding R54, R55;
00_scope R9). -/

namespace Sys2Proof.Machine

/-- `sign = X[63]` (R9, R54). -/
def signField (x : Word) : Bool := x.getLsbD 63

/-- `exp = X[62:52]`, the biased exponent (R9, R54). -/
def expField (x : Word) : BitVec 11 := x.extractLsb' 52 11

/-- `frac = X[51:0]`; also DEC's mantissa `m = DATA[51:0]` (R9, R54). -/
def fracField (x : Word) : Mantissa := x.extractLsb' 0 52

/-- DEC's `hi = DATA[63:52]` (R54). -/
def highField (x : Word) : BitVec 12 := x.extractLsb' 52 12

/-- A 52-bit result in RDATA, bits 63:52 zero (R55). -/
def zext64 (m : Mantissa) : Word := m.setWidth 64

end Sys2Proof.Machine
end

