-- ==== Sys2Proof/Config.lean ====
section
/-! DEFINITION. What the spec leaves open. The engine takes no parameters (00_scope R5), so the only entry is the
content of a state word that nothing has loaded (10_state R26, R31): a free value. -/

namespace Sys2Proof

/-- DESIGN CHOICE (log entries 1 and 2): the content of a state word while its valid flag is 0 is unspecified (R26,
R31, R75), so each time a word becomes unspecified it takes the next of these values. The constant has no body:
nothing can be proved of any of them, so a claim about the engine holds for every content of such a word (R132). -/
opaque Config.freeWord : Nat → Word

end Sys2Proof
end

