-- ==== Sys2Proof/Machine/State.lean ====
section
/-! DEFINITION. The state of the engine (10_state R20 to R31), the port it is driven through (00_scope R12), the ways
a step can end, and the state after reset (R31, R130). The engine has no memory and no program counter (R24, R29). -/

namespace Sys2Proof.Machine

/-- The three errors (60_exceptions R110). -/
inductive Error where
  /-- The OP field is reserved (R111). -/
  | illegal
  /-- A state word the command needs is not valid (R112). -/
  | unseeded
  /-- A codec operand is outside the operation's domain (R113). -/
  | domain
deriving DecidableEq, Repr

/-- The outcome a response reports: completed, or one of the errors. Values 4 to 15 of the STATUS field are never
produced (R53), so they have no constructor. -/
inductive Status where
  | ok
  | error (e : Error)
deriving DecidableEq, Repr

/-- One response: its STATUS and its RDATA (30_encoding R53). -/
structure Response where
  status : Status
  rdata : Word
deriving DecidableEq, Repr

/-- What the host does next: presents one whole command word, or asserts reset between two commands (R12, R130,
R131, R136). -/
inductive HostEvent where
  | command (c : CommandWord)
  | reset
deriving DecidableEq, Repr

/-- The machine. `s0`, `s1`, `v0` and `v1` are the engine's whole state (R12, R30). The other three fields are the
model's: `input` and `responses` hold the two ports' traffic as plain data (log entries 3 and 4), and `fresh` counts
the free values taken so far (log entry 2). -/
structure State where
  /-- State word 0 (R20); a free value while `v0` is false (R26, log entry 1). -/
  s0 : Word
  /-- State word 1 (R20); a free value while `v1` is false (R26, log entry 1). -/
  s1 : Word
  /-- V0: S0 has been written since the last reset or CLR (R25). -/
  v0 : Bool
  /-- V1: S1 has been written since the last reset or CLR (R25). -/
  v1 : Bool
  /-- The number of the next free value of `Config.freeWord` (the model's own, log entry 2). -/
  fresh : Nat
  /-- What the host still does, oldest first (R45, R130; the model's own, log entry 3). -/
  input : List HostEvent
  /-- The responses delivered so far, oldest first (R138; the model's own, log entry 4). -/
  responses : List Response
deriving DecidableEq, Repr

/-- Reasons the machine stops with a fault: there is none. Every word has a defined response (R57), an error is a
response after which the machine goes on (R117 to R119), and no run has an architected end (R138). -/
inductive Fault where
deriving DecidableEq, Repr

/-- Reasons the model gives an instruction no meaning. -/
inductive Refusal where
  /-- Raised by an arm of `exec` whose instruction has no meaning yet, and by nothing else; safe, since no effect is
  claimed. No arm raises it in this model. -/
  | notModelled (mnemonic : String)
deriving DecidableEq, Repr

/-- How a meaning or a step answers. -/
abbrev Answer := Host.Outcome State Fault Refusal

/-- The machine right after reset: both flags clear and both words unspecified (R31, R130), the latter as the free
values 0 and 1 (DESIGN CHOICE, log entry 1); nothing presented and nothing answered yet (log entries 3 and 4). -/
def State.reset : State where
  s0 := Config.freeWord 0
  s1 := Config.freeWord 1
  v0 := false
  v1 := false
  fresh := 2
  input := []
  responses := []

end Sys2Proof.Machine
end

