-- ==== Sys2Proof/Machine/Ops.lean ====
section
/-! DEFINITION. The named operations: the integer primitives (00_scope R8), the response word (30_encoding R53),
ending a command with a response or an error (00_scope R11, 60_exceptions R117), and every write of the state words
and flags (10_state R22, R25). An error changes nothing, so there is no return from it (R119). -/

namespace Sys2Proof.Machine

/-- Bitwise exclusive or (R8). -/
def xor64 (a b : Word) : Word := a ^^^ b

/-- Bitwise inclusive or (R8). -/
def or64 (a b : Word) : Word := a ||| b

/-- Left shift, bits past bit 63 lost (R8). -/
def shl64 (a : Word) (n : Nat) : Word := a <<< n

/-- Logical right shift, zeros entering at bit 63 (R8). -/
def shr64 (a : Word) (n : Nat) : Word := a >>> n

/-- The left-shift amount A of the step (R5). -/
def shiftA : Nat := 23

/-- The first right-shift amount B of the step (R5). -/
def shiftB : Nat := 17

/-- The second right-shift amount C of the step (R5). -/
def shiftC : Nat := 26

/-- The low bits of a state word that the output discards (R5). -/
def discardedBits : Nat := 12

/-- EXP_ONE, the binary64 pattern of 1.0 (R5, R9). -/
def expOne : Word := 0x3FF0000000000000

/-- The STATUS codes (R53, R110). -/
def statusCode : Status → BitVec 4
  | .ok => 0
  | .error .illegal => 1
  | .error .unseeded => 2
  | .error .domain => 3

/-- The response word `STATUS ‖ RDATA` (R53). -/
def responseWord (r : Response) : ResponseWord := statusCode r.status ++ r.rdata

/-- `respond(st, d)` ends the command with this response (R11). -/
def respond (st : Status) (d : Word) (s : State) : State :=
  { s with responses := s.responses ++ [⟨st, d⟩] }

/-- `raise E` ends the command with the error's code and RDATA = 0, and writes no state (R11, R117): the one way an
error is taken. -/
def raise (e : Error) (s : State) : State := respond (.error e) 0 s

/-- `S0 <- v`, `V0 <- 1` (R70). -/
def loadS0 (v : Word) (s : State) : State := { s with s0 := v, v0 := true }

/-- `S1 <- v`, `V1 <- 1` (R71). -/
def loadS1 (v : Word) (s : State) : State := { s with s1 := v, v1 := true }

/-- `(S0, S1) <- p`, both words together, the flags as they are (R92). -/
def storePair (p : Word × Word) (s : State) : State := { s with s0 := p.1, s1 := p.2 }

/-- Discards the Generator State: both flags cleared and both words unspecified, each the next free value (R75, R130;
log entry 2). CLR and reset do this alike (R130). -/
def discard (s : State) : State :=
  { s with
    s0 := Config.freeWord s.fresh
    s1 := Config.freeWord (s.fresh + 1)
    v0 := false
    v1 := false
    fresh := s.fresh + 2 }

/-- The host will present these command words after everything it presents already (R45, R136). -/
def present (cs : List CommandWord) (s : State) : State :=
  { s with input := s.input ++ cs.map .command }

end Sys2Proof.Machine
end

