-- ==== Sys2Proof/Machine/Binary64.lean ====
section
/-! DEFINITION. binary64 as the codec uses it: the value of a pattern (00_scope R9, R10), the unit-interval check
(41_codec R81), the integer forms enc52 and dec64 (R82, R84), and the binary64 sum and difference of D0's own wording
(R80, R83) rounded to nearest, ties to even (R86). The commands run the integer forms; the sum and difference stand
beside them so that the two can be proved equal (log entry 7). -/

namespace Sys2Proof.Machine

/-- The kinds of binary64 pattern (R9, R10). -/
inductive FloatClass where
  | zero | subnormal | normal | infinity | nan
deriving DecidableEq, Repr

/-- The kind of a pattern, by its exponent and fraction fields (R9, R10). -/
def classify (x : Word) : FloatClass :=
  if expField x = 0 then (if fracField x = 0 then .zero else .subnormal)
  else if expField x = 2047 then (if fracField x = 0 then .infinity else .nan)
  else .normal

/-- `(-1)^sign` (R9). -/
def signFactor (x : Word) : ℚ := if signField x then -1 else 1

/-- The real value of a pattern (R9, R10), a rational number; infinities and NaNs have none. -/
def value (x : Word) : Option ℚ :=
  match classify x with
  | .zero => some 0
  | .subnormal => some (signFactor x * (fracField x).toNat * 2 ^ (-1074 : ℤ))
  | .normal => some
      (signFactor x * (1 + (fracField x).toNat * 2 ^ (-52 : ℤ)) * 2 ^ (((expField x).toNat : ℤ) - 1023))
  | .infinity => none
  | .nan => none

/-- The grid value `k * 2^-52` (glossary of 00_scope). -/
def gridValue (k : Nat) : ℚ := k * 2 ^ (-52 : ℤ)

/-- `sig / 2^s` rounded to the nearest integer, a tie to the even one; for `1 <= s` (R82, R86). -/
def roundHalfEven (sig s : Nat) : Nat :=
  let q := sig / 2 ^ s
  let r := sig % 2 ^ s
  let h := 2 ^ (s - 1)
  if r > h ∨ (r = h ∧ q % 2 = 1) then q + 1 else q

/-- `InUnit(X)`: +0, -0, or positive and below 1.0 (R81). -/
def inUnit (x : Word) : Bool :=
  x.extractLsb' 0 63 == 0 || (!signField x && decide ((expField x).toNat ≤ 1022))

/-- The significand `sig` of R82, with the hidden bit of a normal number. -/
def encSignificand (x : Word) : Nat :=
  if expField x = 0 then (fracField x).toNat else 2 ^ 52 + (fracField x).toNat

/-- The scale `s` of R82: `|x| * 2^52 = sig / 2^s`. -/
def encScale (x : Word) : Nat :=
  if expField x = 0 then 1022 else 1023 - (expField x).toNat

/-- `enc52(X)` (R82), for X in the unit interval. -/
def enc52 (x : Word) : Mantissa := BitVec.ofNat 52 (roundHalfEven (encSignificand x) (encScale x))

/-- `dec64(m)` (R84): the pattern whose value is `m * 2^-52`. -/
def dec64 (m : Mantissa) : Word :=
  if m = 0 then 0
  else
    let k := m.toNat.log2
    BitVec.ofNat 64 ((971 + k) * 2 ^ 52 + (m.toNat - 2 ^ k) * 2 ^ (52 - k))

/-- A pattern is finite when its exponent field is below 2047 (R9, R10). -/
def isFinite (x : Word) : Bool := expField x != 2047

/-- The value of a finite pattern as a count of the smallest subnormal, 2^-1074. -/
def scaled (x : Word) : Int :=
  let magnitude := encSignificand x * 2 ^ ((expField x).toNat - 1)
  if signField x then -(magnitude : Int) else magnitude

/-- The pattern (sign left out) of the binary64 number nearest to `n * 2^-1074`, a tie to the even fraction (R86);
beyond the largest finite number, infinity. -/
def roundMagnitude (n : Nat) : Nat :=
  if n < 2 ^ 53 then n
  else
    let s := n.log2 - 52
    min (s * 2 ^ 52 + roundHalfEven n s) 0x7FF0000000000000

/-- The sum of two finite patterns, rounded to nearest, ties to even (R80, R86); an exact zero is +0 unless both
operands are negative. For an infinity or a NaN the spec gives no sum, and there is no answer (log entry 13). -/
def fadd64 (x y : Word) : Option Word :=
  if isFinite x && isFinite y then
    let n := scaled x + scaled y
    let negative := if n = 0 then signField x && signField y else decide (n < 0)
    some (or64 (shl64 (if negative then 1 else 0) 63) (BitVec.ofNat 64 (roundMagnitude n.natAbs)))
  else none

/-- The difference `x - y`, the sum with the sign of `y` turned round (R83, R86). -/
def fsub64 (x y : Word) : Option Word := fadd64 x (xor64 y 0x8000000000000000)

end Sys2Proof.Machine
end

