-- ==== Sys2Proof/Machine/Codec.lean ====
section
/-! DEFINITION. The Double/Bit Codec commands ENC and DEC (41_codec R80, R83); neither reads nor writes the
Generator State. -/

namespace Sys2Proof.Machine

/-- A command with a checked operand: its result when the operand is in the operation's domain, else E_DOMAIN
(R113). -/
def withDomain (inDomain : Bool) (result : Word) (s : State) : Answer :=
  .next (if inDomain then respond .ok result s else raise .domain s)

/-- ENC: the 52-bit mantissa of x + 1.0, for x in the unit interval; E_DOMAIN outside it (R80 to R82). -/
def execEnc (data : Word) (s : State) : Answer := withDomain (inUnit data) (zext64 (enc52 data)) s

/-- DEC: the pattern of `m * 2^-52`; E_DOMAIN when DATA holds more than 52 bits (R83, R84). -/
def execDec (data : Word) (s : State) : Answer :=
  withDomain (highField data == 0) (dec64 (fracField data)) s

end Sys2Proof.Machine
end

