-- ==== Sys2Proof/Machine/Flags.lean ====
section
/-! DEFINITION. The valid flags as data and as preconditions (10_state R25 to R27; 60_exceptions R112). The three
readers below are the only paths from a state word to a command, so no command can see an unspecified word. -/

namespace Sys2Proof.Machine

/-- STATUS_REG: bit 0 is V0, bit 1 is V1, bits 63:2 are zero; a view, not state (R27, R74). -/
def statusReg (s : State) : Word := (BitVec.ofBool s.v1 ++ BitVec.ofBool s.v0).setWidth 64

/-- A command that needs S0: E_UNSEEDED when V0 = 0, without reading (R26, R112). -/
def withS0 (s : State) (use : Word → State) : Answer :=
  .next (if s.v0 then use s.s0 else raise .unseeded s)

/-- A command that needs S1: E_UNSEEDED when V1 = 0, without reading (R26, R112). -/
def withS1 (s : State) (use : Word → State) : Answer :=
  .next (if s.v1 then use s.s1 else raise .unseeded s)

/-- A command that needs the whole Generator State: E_UNSEEDED when V0 = 0 or V1 = 0 (R92, R103, R112). -/
def withPair (s : State) (use : Word → Word → State) : Answer :=
  .next (if s.v0 && s.v1 then use s.s0 s.s1 else raise .unseeded s)

end Sys2Proof.Machine
end

