-- ==== Sys2Proof/Machine/Transition.lean ====
section
/-! DEFINITION. The state transition (42_transition R90) and the command STEP (R92). -/

namespace Sys2Proof.Machine

/-- `t2` of R90: the two xorshifts of the old state0, the second acting on the result of the first. -/
def xorshift (a : Word) : Word :=
  let t1 := xor64 a (shl64 a shiftA)
  xor64 t1 (shr64 t1 shiftB)

/-- `step(a, b)` of R90: the new `(state0, state1)` from the old. -/
def transition (a b : Word) : Word × Word :=
  let t3 := xor64 (xorshift a) b
  (b, xor64 t3 (shr64 b shiftC))

/-- STEP (R92). -/
def execStep (s : State) : Answer :=
  withPair s fun a b => respond .ok 0 (storePair (transition a b) s)

end Sys2Proof.Machine
end

