-- ==== Sys2Proof/Machine/Output.lean ====
section
/-! DEFINITION. The output formatting functions (43_output_format R104) and the commands MANT, DBL, OUT, NEXT (R100 to
R103). -/

namespace Sys2Proof.Machine

/-- `mant52(w) = w[63:12]` (R104). -/
def mant52 (w : Word) : Mantissa := (shr64 w discardedBits).setWidth 52

/-- `dbl64(w)`: the mantissa under the exponent of [1,2) (R104). -/
def dbl64 (w : Word) : Word := or64 expOne (zext64 (mant52 w))

/-- `out64(w)`: the generator output formed from the word (R104). -/
def out64 (w : Word) : Word := dec64 (mant52 w)

/-- MANT (R100). -/
def execMant (s : State) : Answer := withS0 s fun w => respond .ok (zext64 (mant52 w)) s

/-- DBL (R101). -/
def execDbl (s : State) : Answer := withS0 s fun w => respond .ok (dbl64 w) s

/-- OUT (R102). -/
def execOut (s : State) : Answer := withS0 s fun w => respond .ok (out64 w) s

/-- NEXT: one step, then the output of the new S0, as one command (R103). -/
def execNext (s : State) : Answer :=
  withPair s fun a b =>
    let p := transition a b
    respond .ok (out64 p.1) (storePair p s)

end Sys2Proof.Machine
end

