-- ==== Sys2Proof/Machine/StateAccess.lean ====
section
/-! DEFINITION. The state access commands LD0, LD1, RD0, RD1, RDST, CLR (40_state_access R70 to R75). -/

namespace Sys2Proof.Machine

/-- LD0 (R70). -/
def execLd0 (data : Word) (s : State) : Answer := .next (respond .ok 0 (loadS0 data s))

/-- LD1 (R71). -/
def execLd1 (data : Word) (s : State) : Answer := .next (respond .ok 0 (loadS1 data s))

/-- RD0 (R72). -/
def execRd0 (s : State) : Answer := withS0 s fun w => respond .ok w s

/-- RD1 (R73). -/
def execRd1 (s : State) : Answer := withS1 s fun w => respond .ok w s

/-- RDST (R74). -/
def execRdst (s : State) : Answer := .next (respond .ok (statusReg s) s)

/-- CLR (R75). -/
def execClr (s : State) : Answer := .next (respond .ok 0 (discard s))

end Sys2Proof.Machine
end

