-- ==== Sys2Proof/Machine/Dispatch.lean ====
section
/-! DEFINITION. One arm per command: the function `exec` of 00_scope R12, its response kept in the state. -/

namespace Sys2Proof.Machine

def exec (i : Instr) (s : State) : Host.Outcome State Fault Refusal :=
  match i with
  -- state access, R70 to R75
  | .ld0 data => Sys2Proof.Machine.execLd0 data s
  | .ld1 data => Sys2Proof.Machine.execLd1 data s
  | .rd0 => Sys2Proof.Machine.execRd0 s
  | .rd1 => Sys2Proof.Machine.execRd1 s
  | .rdst => Sys2Proof.Machine.execRdst s
  | .clr => Sys2Proof.Machine.execClr s
  -- codec, R80 and R83
  | .enc data => Sys2Proof.Machine.execEnc data s
  | .dec data => Sys2Proof.Machine.execDec data s
  -- transition, R92
  | .step => Sys2Proof.Machine.execStep s
  -- output formatting, R100 to R103
  | .mant => Sys2Proof.Machine.execMant s
  | .dbl => Sys2Proof.Machine.execDbl s
  | .out => Sys2Proof.Machine.execOut s
  | .next => Sys2Proof.Machine.execNext s

end Sys2Proof.Machine
end

