-- ==== Sys2Proof/Machine/Port.lean ====
section
/-! DEFINITION. What one event at the engine's ports does (00_scope R12, 20_memory R45, 70_reset_and_hazards R130). -/

namespace Sys2Proof.Machine

/-- The engine executes one command word: the command it encodes, or E_ILLEGAL for a reserved OP, whatever its DATA
(R57, R111). -/
def executeWord (c : CommandWord) (s : State) : Answer :=
  match decode c with
  | .ok i => exec i s
  | .error _ => .next (raise .illegal s)

/-- The next event in the order presented (R45): a command is executed whole (R44), a reset discards the Generator
State and gives no response (R130); with nothing presented the engine holds its state (R23, R122; log entry 3). -/
def serveNext (s : State) : Answer :=
  match s.input with
  | [] => .next s
  | .command c :: rest => executeWord c { s with input := rest }
  | .reset :: rest => .next (discard { s with input := rest })

/-- The host presents this command word before anything else it was going to do (log entry 5). -/
def presentFirst (c : CommandWord) (s : State) : State :=
  { s with input := .command c :: s.input }

end Sys2Proof.Machine
end

