-- ==== Sys2Proof/Machine/Step.lean ====
section
/-! DEFINITION. One step of the machine: the next event of the ports is served (00_scope R12). -/

namespace Sys2Proof.Machine

/-- One step: one command executed, or one reset taken, or nothing presented and the state held (R12, R45, R130). -/
def step (s : State) : Host.Outcome State Fault Refusal := serveNext s

/-- The state with this command word, numbered as the opcode table numbers it, presented next (log entries 5 and
6). -/
def State.withFetchWord (s : State) (nbits w : Nat) : State := presentFirst (tableWord nbits w) s

end Sys2Proof.Machine
end

