-- ==== Sys2Proof/WellFormed.lean ====
section
/-! DEFINITION. Which lines of a listing can be assembled (30_encoding R52, R59, R60). A command (`Instr`) needs no
check of its own: its operand is 64 bits by type, and every such operand is legal to send (R52, R57). -/

namespace Sys2Proof

/-- A literal fits the 64-bit DATA field (R54; "up to 16 digits", R59). -/
def fitsOperand (a : Nat) : Bool := decide (a < 2 ^ 64)

/-- A format D command has one operand that fits its field, a format N command has none (R52, R59); the seeds of SEED
and PREDICT fit a state word, and GEN takes any count (R60). -/
def Line.wellFormed : Line → Bool
  | .command m none => m.format == .N
  | .command m (some a) => m.format == .D && fitsOperand a
  | .seed a b => fitsOperand a && fitsOperand b
  | .predict a b => fitsOperand a && fitsOperand b
  | .gen _ => true

end Sys2Proof
end

