-- ==== Sys2Proof/Machine/Assembler.lean ====
section
/-! DEFINITION. The assembler of the spec's listings (30_encoding R59, R60): lines to commands to words, and the text
of a line to the line. It stands outside the engine, which sees the words only. -/

namespace Sys2Proof.Machine

/-- The commands a line stands for, in that order (R60); none where the line is ill-formed (R59). -/
def expandLine (l : Line) : Option (List Instr) :=
  if l.wellFormed then
    match l with
    | .command m a => some [Instr.ofParts m (BitVec.ofNat 64 (a.getD 0))]
    | .seed a b => some [.ld0 (BitVec.ofNat 64 a), .ld1 (BitVec.ofNat 64 b)]
    | .predict a b => some [.ld0 (BitVec.ofNat 64 a), .ld1 (BitVec.ofNat 64 b), .next]
    | .gen n => some (List.replicate n .next)
  else none

/-- The words the assembler emits for a line: `OP ‖ DATA` each (R59). -/
def assembleLine (l : Line) : Option (List CommandWord) := (expandLine l).map (List.map encode)

/-- The words of a listing, line by line (R59). -/
def assemble : List Line → Option (List CommandWord)
  | [] => some []
  | l :: rest =>
    match assembleLine l, assemble rest with
    | some a, some b => some (a ++ b)
    | _, _ => none

/-- How a mnemonic is written: in capitals (R56, R59). -/
def mnemonicText : Mnemonic → List Char
  | .LD0 => ['L', 'D', '0']
  | .LD1 => ['L', 'D', '1']
  | .RD0 => ['R', 'D', '0']
  | .RD1 => ['R', 'D', '1']
  | .RDST => ['R', 'D', 'S', 'T']
  | .CLR => ['C', 'L', 'R']
  | .ENC => ['E', 'N', 'C']
  | .DEC => ['D', 'E', 'C']
  | .STEP => ['S', 'T', 'E', 'P']
  | .MANT => ['M', 'A', 'N', 'T']
  | .DBL => ['D', 'B', 'L']
  | .OUT => ['O', 'U', 'T']
  | .NEXT => ['N', 'E', 'X', 'T']

/-- The mnemonic a word of the text names. -/
def mnemonicOfText (t : List Char) : Option Mnemonic := Mnemonic.all.find? fun m => mnemonicText m == t

/-- A word of the text ends here: kept unless it is empty. -/
def closeWord (word : List Char) : List (List Char) := if word.isEmpty then [] else [word]

/-- The words of a line: blanks part them, a comma is a word of its own, and `;` starts a comment (R59; DESIGN CHOICE:
the blanks are space and tab, log entry 12). `word` is the word being read. -/
def lineWords (word : List Char) : List Char → List (List Char)
  | [] => closeWord word
  | c :: rest =>
    if c = ';' then closeWord word
    else if c = ' ' ∨ c = '\t' then closeWord word ++ lineWords [] rest
    else if c = ',' then closeWord word ++ [','] :: lineWords [] rest
    else lineWords (word ++ [c]) rest

/-- The value of a hexadecimal digit (DESIGN CHOICE: of either case, log entry 12). -/
def hexDigit (c : Char) : Option Nat :=
  if '0' ≤ c ∧ c ≤ '9' then some (c.toNat - 48)
  else if 'A' ≤ c ∧ c ≤ 'F' then some (c.toNat - 55)
  else if 'a' ≤ c ∧ c ≤ 'f' then some (c.toNat - 87)
  else none

/-- The value of digits in this base, most significant first; `acc` is the value of those already read. -/
def digitsValue (base : Nat) (acc : Nat) : List Char → Option Nat
  | [] => some acc
  | c :: rest =>
    match hexDigit c with
    | some d => if d < base then digitsValue base (acc * base + d) rest else none
    | none => none

/-- A hexadecimal literal: `0x` and 1 to 16 digits, underscores between digits (R59). -/
def hexLiteral : List Char → Option Nat
  | '0' :: 'x' :: ds =>
    let digits := ds.filter (· ≠ '_')
    if ds.head? = some '_' ∨ ds.getLast? = some '_' ∨ digits = [] ∨ 16 < digits.length then none
    else digitsValue 16 0 digits
  | _ => none

/-- GEN's count: a decimal number or a hexadecimal literal (R60; DESIGN CHOICE, log entry 12). -/
def countLiteral (t : List Char) : Option Nat :=
  match hexLiteral t with
  | some n => some n
  | none => if t = [] then none else digitsValue 10 0 t

/-- The line a text stands for: none for a blank or comment line, as an empty list (R59, R60); no answer where the text
is no line. -/
def parseLine (text : List Char) : Option (List Line) :=
  match lineWords [] text with
  | [] => some []
  | [m] => (mnemonicOfText m).map fun m => [.command m none]
  | [m, a] =>
    if m = ['G', 'E', 'N'] then (countLiteral a).map fun n => [.gen n]
    else
      match mnemonicOfText m, hexLiteral a with
      | some m, some a => some [.command m (some a)]
      | _, _ => none
  | [m, a, comma, b] =>
    match hexLiteral a, hexLiteral b with
    | some a, some b =>
      if comma ≠ [','] then none
      else if m = ['S', 'E', 'E', 'D'] then some [.seed a b]
      else if m = ['P', 'R', 'E', 'D', 'I', 'C', 'T'] then some [.predict a b]
      else none
    | _, _ => none
  | _ => none

/-- The words of a listing given as text, one list of characters a line. -/
def assembleText (lines : List (List Char)) : Option (List CommandWord) :=
  match lines with
  | [] => some []
  | t :: rest =>
    match parseLine t, assembleText rest with
    | some ls, some after => (assemble ls).map (· ++ after)
    | _, _ => none

end Sys2Proof.Machine
end

