-- ==== Sys2Proof/Safety.lean ====
section
/-! DEFINITION. The terms in which claims about runs are stated: what a response may be, when two states look alike
from outside (10_state R26, 70_reset_and_hazards R132), and which events touch which word (10_state R22, R25). -/

namespace Sys2Proof.Machine

/-- A response carries no result beside an error (30_encoding R55, 60_exceptions R117). -/
def Response.Legal (r : Response) : Prop := r.status ≠ .ok → r.rdata = 0

/-- Every response delivered so far is legal. -/
def State.ResponsesLegal (s : State) : Prop := ∀ r ∈ s.responses, r.Legal

/-- Two states no command can tell apart: the same flags, the same content of every VALID word, and the same traffic
at the ports. The content of a word whose flag is 0 and the counter of free values may differ (R26, R132). -/
def State.Agree (s t : State) : Prop :=
  s.v0 = t.v0 ∧ s.v1 = t.v1 ∧ (s.v0 = true → s.s0 = t.s0) ∧ (s.v1 = true → s.s1 = t.s1) ∧
    s.input = t.input ∧ s.responses = t.responses

/-- The event is a command word that decodes to this command. -/
def HostEvent.Is (e : HostEvent) (i : Instr) : Prop := ∃ c, e = .command c ∧ decode c = .ok i

/-- The event loads S0 (R70). -/
def HostEvent.LoadsS0 (e : HostEvent) : Prop := ∃ data, e.Is (.ld0 data)

/-- The event loads S1 (R71). -/
def HostEvent.LoadsS1 (e : HostEvent) : Prop := ∃ data, e.Is (.ld1 data)

/-- The event discards the Generator State: a reset or a CLR (R75, R130). -/
def HostEvent.Discards (e : HostEvent) : Prop := e = .reset ∨ e.Is .clr

/-- The event advances the Generator State: a STEP or a NEXT (R23). -/
def HostEvent.Steps (e : HostEvent) : Prop := e.Is .step ∨ e.Is .next

/-- The 243 OP values that name no command, by the ranges of the spec (30_encoding R57). -/
def ReservedOpcode (op : Opcode) : Prop :=
  op.toNat = 0x00 ∨ (0x07 ≤ op.toNat ∧ op.toNat ≤ 0x0F) ∨ (0x12 ≤ op.toNat ∧ op.toNat ≤ 0x1F) ∨
    (0x21 ≤ op.toNat ∧ op.toNat ≤ 0x2F) ∨ (0x34 ≤ op.toNat ∧ op.toNat ≤ 0xFF)

/-- The commands that write no state (10_state R22, R25; 20_memory R44). -/
def readingCommands (data : Word) : List Instr :=
  [.rd0, .rd1, .rdst, .enc data, .dec data, .mant, .dbl, .out]

/-- How many commands are still to be answered. -/
def pendingCommands : List HostEvent → Nat
  | [] => 0
  | .command _ :: rest => pendingCommands rest + 1
  | .reset :: rest => pendingCommands rest

/-- `k` applications of the step function to a Generator State, the first one first (R105). -/
def transitions : Nat → Word × Word → Word × Word
  | 0, p => p
  | k + 1, p => transitions k (transition p.1 p.2)

/-- The first `n` outputs of the generator from a seed: output k is formed from state0 after k steps (R105). -/
def outputs (n : Nat) (a b : Word) : List Word :=
  (List.range n).map fun k => out64 (transitions (k + 1) (a, b)).1

end Sys2Proof.Machine
end

