-- ==== Sys2Proof/Certificates/Slice0/Obligations.lean ====
section
/-! DEFINITION. The statements about the engine, each from a numbered rule of the spec or from a section of it. The
response of a command is the entry it appends to `responses` (log entry 4); the host's next command or reset is the
head of `input` (log entry 3). The engine has no memory and no program counter, so a frame names the state words, the
flags, the counter of free values and the two ports only. -/

open Sys2Proof Sys2Proof.Machine

/-! ## Encoding -/

/-- Decoding the canonical word of any command gives the command back, whatever its operand (30_encoding §1, §3, §5:
`OP ‖ DATA`). -/
def Obligations.DecodeOfEncodeIsTheCommand : Prop := ∀ i : Instr, decode (encode i) = .ok i

/-- A word that decodes to a command has that command's opcode, and the command's canonical word is that word with
DATA = 0 where the format is N (30_encoding §1, §5). -/
def Obligations.EncodeOfDecodeIsTheCanonicalWord : Prop :=
  ∀ (c : CommandWord) (i : Instr), decode c = .ok i →
    i.mnemonic.opcode = opField c ∧
      encode i = commandWord (opField c) (if i.mnemonic.format = .N then 0 else dataField c)

/-- R57: the reserved OP values are those of its list, 243 of them; a word with one of them is rejected by name and
answered E_ILLEGAL with RDATA = 0 and no state written, whatever its DATA; every other word is a command. -/
def Obligations.ReservedOpcodesAnswerIllegal : Prop :=
  (∀ c : CommandWord,
      (ReservedOpcode (opField c) → decode c = .error (.reservedOpcode (opField c))) ∧
        (¬ ReservedOpcode (opField c) → ∃ i, decode c = .ok i)) ∧
    ((List.range 256).filter fun n => (Mnemonic.ofOpcode (BitVec.ofNat 8 n)).isNone).length = 243 ∧
    ∀ (s : State) (c : CommandWord) (rest : List HostEvent), s.input = .command c :: rest →
      ReservedOpcode (opField c) →
        step s = .next { s with input := rest, responses := s.responses ++ [⟨.error .illegal, 0⟩] }

/-- R52: the DATA field of a format N word selects nothing, and the canonical word has DATA = 0; a format D word's
DATA is the operand, any value for LD0, LD1 and ENC, and DEC succeeds exactly when DATA[63:52] = 0. -/
def Obligations.FormatNIgnoresTheDataField : Prop :=
  (∀ data : Word,
      decode (commandWord 0x03 data) = .ok .rd0 ∧ decode (commandWord 0x04 data) = .ok .rd1 ∧
        decode (commandWord 0x05 data) = .ok .rdst ∧ decode (commandWord 0x06 data) = .ok .clr ∧
        decode (commandWord 0x20 data) = .ok .step ∧ decode (commandWord 0x30 data) = .ok .mant ∧
        decode (commandWord 0x31 data) = .ok .dbl ∧ decode (commandWord 0x32 data) = .ok .out ∧
        decode (commandWord 0x33 data) = .ok .next) ∧
    (∀ i ∈ [Instr.rd0, .rd1, .rdst, .clr, .step, .mant, .dbl, .out, .next], dataField (encode i) = 0) ∧
    (∀ data : Word,
      decode (commandWord 0x01 data) = .ok (.ld0 data) ∧ decode (commandWord 0x02 data) = .ok (.ld1 data) ∧
        decode (commandWord 0x10 data) = .ok (.enc data) ∧ decode (commandWord 0x11 data) = .ok (.dec data)) ∧
    ∀ (s : State) (data : Word), ∃ t r, exec (.dec data) s = .next t ∧ t.responses = s.responses ++ [r] ∧
      (r.status = .ok ↔ data.toNat < 2 ^ 52)

/-- Words written out in the spec decode to the commands they stand for (the examples of R70 to R103 and of
95_test_vectors). -/
def Obligations.SpecWordsDecode : Prop :=
  decode 0x010000000000000001 = .ok (.ld0 1) ∧ decode 0x020000000000000002 = .ok (.ld1 2) ∧
    decode 0x03DEADBEEF00000000 = .ok .rd0 ∧ decode 0x060000000000000000 = .ok .clr ∧
    decode 0x103FE0000000000000 = .ok (.enc 0x3FE0000000000000) ∧
    decode 0x110008000000000000 = .ok (.dec 0x0008000000000000) ∧ decode 0x200000000000000000 = .ok .step ∧
    decode 0x330000000000000000 = .ok .next ∧ decode 0x000000000000000000 = .error (.reservedOpcode 0)

/-- The byte form of a command in listings is nine bytes, the OP byte first; reading the nine bytes back decodes as
the word does and leaves the bytes after it, and fewer than nine bytes are no command (20_memory §2; that the last are
rejected by a name of their own is log entry 14). -/
def Obligations.ByteListingDecodesAsItsWord : Prop :=
  (∀ (c : CommandWord) (rest : List Byte),
      (commandBytes c).length = 9 ∧ (commandBytes c).head? = some (opField c) ∧
        decodeBytes (commandBytes c ++ rest) = (decode c).map fun i => (i, rest)) ∧
    ∀ bs : List Byte, bs.length < 9 → decodeBytes bs = .error (.partialCommand bs.length)

/-- R53: STATUS is P[67:64] and RDATA is P[63:0]; the codes are 0 OK, 1 E_ILLEGAL, 2 E_UNSEEDED, 3 E_DOMAIN, and 4 to
15 are never produced. -/
def Obligations.ResponseWordHoldsStatusAndRdata : Prop :=
  ∀ r : Response,
    (responseWord r).toNat / 2 ^ 64 =
        (match r.status with | .ok => 0 | .error .illegal => 1 | .error .unseeded => 2 | .error .domain => 3) ∧
      (responseWord r).toNat % 2 ^ 64 = r.rdata.toNat ∧ (responseWord r).toNat / 2 ^ 64 ≤ 3 ∧
      ((responseWord r).toNat / 2 ^ 64 = 0 ↔ r.status = .ok)

/-! ## State access -/

/-- R70: LD0 is OP 0x01; it succeeds in every state, writes S0 and V0 and nothing else, and a STEP after it runs from
the new pair exactly when S1 is valid too. -/
def Obligations.Ld0LoadsStateWord0 : Prop :=
  (∀ data : Word, decode (commandWord 0x01 data) = .ok (.ld0 data)) ∧
    (∀ (s : State) (data : Word), exec (.ld0 data) s =
      .next { s with s0 := data, v0 := true, responses := s.responses ++ [⟨.ok, 0⟩] }) ∧
    ∀ (s t u : State) (data : Word), exec (.ld0 data) s = .next t → exec .step t = .next u →
      (s.v1 = true → (u.s0, u.s1) = transition data s.s1) ∧
        (s.v1 = false → u.responses = t.responses ++ [⟨.error .unseeded, 0⟩] ∧ u.s0 = data)

/-- R71: LD1 is OP 0x02; it succeeds in every state and writes S1 and V1 and nothing else; by itself it does not make
STEP legal. -/
def Obligations.Ld1LoadsStateWord1 : Prop :=
  (∀ data : Word, decode (commandWord 0x02 data) = .ok (.ld1 data)) ∧
    (∀ (s : State) (data : Word), exec (.ld1 data) s =
      .next { s with s1 := data, v1 := true, responses := s.responses ++ [⟨.ok, 0⟩] }) ∧
    ∀ (s t u : State) (data : Word), exec (.ld1 data) s = .next t → exec .step t = .next u →
      (s.v0 = true → (u.s0, u.s1) = transition s.s0 data) ∧
        (s.v0 = false → u.responses = t.responses ++ [⟨.error .unseeded, 0⟩] ∧ u.s1 = data)

/-- LD0 and LD1 may be issued in either order: both orders leave the same state, seeded with the pair
(40_state_access §LD1, an inference the spec marks as derived). -/
def Obligations.LoadsCommute : Prop :=
  ∀ (s t1 t2 u1 u2 : State) (a b : Word),
    exec (.ld0 a) s = .next t1 → exec (.ld1 b) t1 = .next t2 →
    exec (.ld1 b) s = .next u1 → exec (.ld0 a) u1 = .next u2 →
      t2 = u2 ∧ (t2.s0, t2.s1) = (a, b) ∧ t2.v0 = true ∧ t2.v1 = true

/-- R72: RD0 is OP 0x03, its DATA ignored; it returns all of S0 when V0 = 1 and raises E_UNSEEDED when V0 = 0, and it
writes nothing. -/
def Obligations.Rd0ReadsStateWord0 : Prop :=
  (∀ data : Word, decode (commandWord 0x03 data) = .ok .rd0) ∧
    (∀ s : State, s.v0 = true →
      exec .rd0 s = .next { s with responses := s.responses ++ [⟨.ok, s.s0⟩] }) ∧
    ∀ s : State, s.v0 = false →
      exec .rd0 s = .next { s with responses := s.responses ++ [⟨.error .unseeded, 0⟩] }

/-- R73: RD1 is OP 0x04, its DATA ignored; it returns all of S1 when V1 = 1 and raises E_UNSEEDED when V1 = 0, writes
nothing, and is the only command whose response shows S1 directly: no other command's response depends on S1 but
NEXT's, which outputs it as the new S0. -/
def Obligations.Rd1ReadsStateWord1 : Prop :=
  (∀ data : Word, decode (commandWord 0x04 data) = .ok .rd1) ∧
    (∀ s : State, s.v1 = true →
      exec .rd1 s = .next { s with responses := s.responses ++ [⟨.ok, s.s1⟩] }) ∧
    (∀ s : State, s.v1 = false →
      exec .rd1 s = .next { s with responses := s.responses ++ [⟨.error .unseeded, 0⟩] }) ∧
    ∀ (i : Instr) (s t u : State) (w : Word), i ≠ .rd1 → i ≠ .next →
      exec i s = .next t → exec i { s with s1 := w } = .next u → t.responses = u.responses

/-- R74: RDST is OP 0x05, its DATA ignored; in every state it returns V0 in bit 0, V1 in bit 1 and zero above, reads
no state word and writes nothing. -/
def Obligations.RdstReadsTheFlags : Prop :=
  (∀ data : Word, decode (commandWord 0x05 data) = .ok .rdst) ∧
    (∀ s : State, exec .rdst s =
      .next { s with responses := s.responses ++ [⟨.ok, BitVec.ofNat 64 (s.v0.toNat + 2 * s.v1.toNat)⟩] }) ∧
    ∀ s : State, (statusReg s).getLsbD 0 = s.v0 ∧ (statusReg s).getLsbD 1 = s.v1 ∧
      ∀ k, 2 ≤ k → (statusReg s).getLsbD k = false

/-- R75: CLR is OP 0x06; it succeeds in every state and clears both flags; what the words hold after it nothing says,
so the reading commands raise E_UNSEEDED until a word is loaded, while ENC and DEC answer as before and RDST answers
0; but for the ports, the state is one no command can tell from the reset state. -/
def Obligations.ClrDiscardsTheGeneratorState : Prop :=
  (∀ data : Word, decode (commandWord 0x06 data) = .ok .clr) ∧
    ∀ s : State, ∃ t, exec .clr s = .next t ∧ t.v0 = false ∧ t.v1 = false ∧ t.input = s.input ∧
      t.responses = s.responses ++ [⟨.ok, 0⟩] ∧
      (∀ i ∈ [Instr.rd0, .rd1, .step, .mant, .dbl, .out, .next],
        exec i t = .next { t with responses := t.responses ++ [⟨.error .unseeded, 0⟩] }) ∧
      (∀ (x : Word) (i : Instr), i = .enc x ∨ i = .dec x → ∃ r u v, exec i s = .next u ∧ exec i t = .next v ∧
        u.responses = s.responses ++ [r] ∧ v.responses = t.responses ++ [r]) ∧
      exec .rdst t = .next { t with responses := t.responses ++ [⟨.ok, 0⟩] } ∧
      State.Agree { t with input := [], responses := [] } State.reset

/-! ## Codec -/

/-- R81: InUnit(X) holds exactly when X[62:0] = 0, or X[63] = 0 and X[62:52] is at most 1022; so it holds exactly of
the patterns whose real value exists and lies in [0,1), -0 among them; an operand outside raises E_DOMAIN. -/
def Obligations.UnitIntervalCheckIsHalfOpen : Prop :=
  (∀ x : Word, inUnit x = true ↔
      x.toNat % 2 ^ 63 = 0 ∨ (x.toNat < 2 ^ 63 ∧ x.toNat / 2 ^ 52 % 2 ^ 11 ≤ 1022)) ∧
    (∀ x : Word, inUnit x = true ↔ ∃ r, value x = some r ∧ 0 ≤ r ∧ r < 1) ∧
    ∀ (s : State) (x : Word), inUnit x = false →
      exec (.enc x) s = .next { s with responses := s.responses ++ [⟨.error .domain, 0⟩] }

/-- R80: ENC is OP 0x10; for an operand in the unit interval it returns the low 52 bits of the binary64 sum x + 1.0,
zero-extended, and otherwise raises E_DOMAIN; it writes nothing, seeded or not. The corner values are R80's. -/
def Obligations.EncIsTheMantissaOfXPlusOne : Prop :=
  (∀ data : Word, decode (commandWord 0x10 data) = .ok (.enc data)) ∧
    (∀ (s : State) (x : Word), inUnit x = true → ∃ y, fadd64 x expOne = some y ∧ fracField y = enc52 x ∧
      exec (.enc x) s = .next { s with responses := s.responses ++ [⟨.ok, zext64 (fracField y)⟩] }) ∧
    (∀ (s : State) (x : Word), inUnit x = false →
      exec (.enc x) s = .next { s with responses := s.responses ++ [⟨.error .domain, 0⟩] }) ∧
    (∀ x r, value x = some r → 0 ≤ r → r ≤ 2 ^ (-53 : ℤ) → enc52 x = 0) ∧
    inUnit 0x8000000000000000 = true ∧ enc52 0x8000000000000000 = 0 ∧
    inUnit 0x3FEFFFFFFFFFFFFF = true ∧ enc52 0x3FEFFFFFFFFFFFFF = 0 ∧
    fadd64 0x3FEFFFFFFFFFFFFF expOne = some 0x4000000000000000 ∧
    enc52 0x3FE0000000000000 = 0x8000000000000 ∧ enc52 0x3FEFFFFFFFFFFFFE = 0xFFFFFFFFFFFFF

/-- R82: with e, f, sig and s read from X as the rule reads them, |x| * 2^52 = sig / 2^s, and enc52(X) is the integer q
nearest to it, a tie going to the even one, taken modulo 2^52; q = 2^52 for X = 0x3FEFFFFFFFFFFFFF only, and q = 0 when
s >= 54. -/
def Obligations.Enc52RoundsToNearestEven : Prop :=
  ∀ x : Word, inUnit x = true →
    let e : Nat := x.toNat / 2 ^ 52 % 2 ^ 11
    let f : Nat := x.toNat % 2 ^ 52
    let sig : Nat := if e = 0 then f else 2 ^ 52 + f
    let s : Nat := if e = 0 then 1022 else 1023 - e
    value x = some ((sig : ℚ) / 2 ^ s * 2 ^ (-52 : ℤ)) ∧
      ∃ q : Nat, (enc52 x).toNat = q % 2 ^ 52 ∧
        q * 2 ^ s ≤ sig + 2 ^ (s - 1) ∧ sig ≤ q * 2 ^ s + 2 ^ (s - 1) ∧
        (q * 2 ^ s = sig + 2 ^ (s - 1) ∨ sig = q * 2 ^ s + 2 ^ (s - 1) → q % 2 = 0) ∧
        (q = 2 ^ 52 ↔ x = 0x3FEFFFFFFFFFFFFF) ∧ q ≤ 2 ^ 52 ∧ (54 ≤ s → q = 0)

/-- R83: DEC is OP 0x11; when DATA[63:52] = 0 it returns the binary64 difference of the pattern `m | EXP_ONE` and 1.0,
and otherwise raises E_DOMAIN; it writes nothing, seeded or not; its result is in [0,1), never subnormal, and +0 for
m = 0. The corner values are R83's. -/
def Obligations.DecIsThePatternMinusOne : Prop :=
  (∀ data : Word, decode (commandWord 0x11 data) = .ok (.dec data)) ∧
    (∀ (s : State) (data : Word), data.toNat < 2 ^ 52 → ∃ z, fsub64 (data ||| 0x3FF0000000000000) expOne = some z ∧
      exec (.dec data) s = .next { s with responses := s.responses ++ [⟨.ok, z⟩] } ∧
      z = dec64 (fracField data) ∧ (data = 0 → z = 0) ∧ classify z ∈ [FloatClass.zero, .normal] ∧ z.toNat ≤ 0x3FEFFFFFFFFFFFFE) ∧
    (∀ (s : State) (data : Word), 2 ^ 52 ≤ data.toNat →
      exec (.dec data) s = .next { s with responses := s.responses ++ [⟨.error .domain, 0⟩] }) ∧
    dec64 1 = 0x3CB0000000000000 ∧ dec64 0x8000000000000 = 0x3FE0000000000000 ∧
    dec64 0xFFFFFFFFFFFFF = 0x3FEFFFFFFFFFFFFE

/-- dec64(0) is +0; for m with most significant bit k, dec64(m) has sign 0, exponent 971 + k and fraction
(m - 2^k) * 2^(52 - k); its real value is exactly m * 2^-52 (41_codec §DEC; the exactness is an inference the spec
marks as derived). -/
def Obligations.Dec64IsTheExactGridValue : Prop :=
  dec64 0 = 0 ∧
    (∀ (m : Mantissa) (k : Nat), 2 ^ k ≤ m.toNat → m.toNat < 2 ^ (k + 1) →
      signField (dec64 m) = false ∧ (expField (dec64 m)).toNat = 971 + k ∧
        (fracField (dec64 m)).toNat = (m.toNat - 2 ^ k) * 2 ^ (52 - k)) ∧
    ∀ m : Mantissa, value (dec64 m) = some (gridValue m.toNat)

/-- R85: DEC then ENC gives every 52-bit m back, as functions and as commands; ENC then DEC gives X back exactly when
X stands for a grid value and is not -0, and for every operand in the unit interval it gives the pattern of
the nearest grid value (of 0 for 1 - 2^-53). -/
def Obligations.CodecRoundTrip : Prop :=
  (∀ m : Mantissa, inUnit (dec64 m) = true ∧ enc52 (dec64 m) = m) ∧
    (∀ (s t : State) (m : Mantissa), exec (.dec (zext64 m)) s = .next t →
      ∃ z, t.responses = s.responses ++ [⟨.ok, z⟩] ∧
        exec (.enc z) t = .next { t with responses := t.responses ++ [⟨.ok, zext64 m⟩] }) ∧
    (∀ x : Word, inUnit x = true →
      (dec64 (enc52 x) = x ↔ x ≠ 0x8000000000000000 ∧ ∃ k < 2 ^ 52, value x = some (gridValue k))) ∧
    ∀ x : Word, inUnit x = true → ∃ k < 2 ^ 52, value (dec64 (enc52 x)) = some (gridValue k) ∧
      (x = 0x3FEFFFFFFFFFFFFF → k = 0) ∧
      (x ≠ 0x3FEFFFFFFFFFFFFF → ∀ r, value x = some r → |r - gridValue k| ≤ 2 ^ (-53 : ℤ))

/-! ## Transition -/

/-- R90: step(a, b) in closed form over the integers: a' = b, and b' from the two xorshifts of a, from b and from
b >> 26. -/
def Obligations.TransitionComputesTheRecurrence : Prop :=
  ∀ a b : Word,
    let t1 := a.toNat ^^^ (a.toNat * 2 ^ 23 % 2 ^ 64)
    let t2 := t1 ^^^ (t1 / 2 ^ 17)
    (transition a b).1 = b ∧ (transition a b).2.toNat = (t2 ^^^ b.toNat) ^^^ (b.toNat / 2 ^ 26)

/-- The same bit by bit: every bit of the new words is the exclusive or of the old bits named, an index outside 0 to
63 contributing 0 (42_transition §The transition function, an inference the spec marks as derived). -/
def Obligations.TransitionBitEquations : Prop :=
  ∀ (a b : Word) (i : Nat), i < 64 →
    let t1 : Nat → Bool := fun j => a.getLsbD j ^^ (decide (23 ≤ j) && a.getLsbD (j - 23))
    let t2 : Nat → Bool := fun j => t1 j ^^ (decide (j + 17 < 64) && t1 (j + 17))
    (transition a b).1.getLsbD i = b.getLsbD i ∧
      (transition a b).2.getLsbD i = ((t2 i ^^ b.getLsbD i) ^^ b.getLsbD (i + 26)) ∧
      (38 ≤ i → (transition a b).2.getLsbD i = (t2 i ^^ b.getLsbD i)) ∧
      (47 ≤ i → t2 i = t1 i) ∧ (i ≤ 22 → t1 i = a.getLsbD i)

/-- The step is linear: the step of an exclusive or is the exclusive or of the steps, word by word (42_transition §STEP,
laws of the step; an inference the spec marks as derived). -/
def Obligations.TransitionIsLinear : Prop :=
  ∀ a b c d : Word,
    (transition (a ^^^ c) (b ^^^ d)).1 = (transition a b).1 ^^^ (transition c d).1 ∧
      (transition (a ^^^ c) (b ^^^ d)).2 = (transition a b).2 ^^^ (transition c d).2

/-- The corner cases of the step (42_transition §STEP, inferences the spec marks as derived): the zero fixed point and
its outputs; the new S0 is the old S1, so outputs 1 and 2 of a seed are those of its state1 and of the new state1; one
word zero; the left shift truncates and does not rotate; the right shift fills with zeros. -/
def Obligations.TransitionCornerCases : Prop :=
  transition 0 0 = (0, 0) ∧
    (∀ n, ∀ w ∈ outputs n 0 0, w = 0) ∧
    (∀ a a' b : Word, (transition a b).1 = b ∧ (transition a b).1 = (transition a' b).1) ∧
    (∀ a b : Word, outputs 2 a b = [out64 b, out64 (transition a b).2]) ∧
    (∀ a : Word, transition a 0 = (0, xorshift a)) ∧
    transition 0x8000000000000000 0 = (0, 0x8000400000000000) ∧
    (∀ b : Word, transition 0 b = (b, b ^^^ (b >>> 26))) ∧
    shl64 0xFFFFFFFFFFFFFFFF 23 = 0xFFFFFFFFFF800000 ∧ shr64 0x8000000000000000 26 = 0x0000002000000000 ∧
    transition 0xFFFFFFFFFFFFFFFF 0xFFFFFFFFFFFFFFFF = (0xFFFFFFFFFFFFFFFF, 0xFFFFFFC0007FFFC0)

/-- R92: STEP is OP 0x20, its DATA ignored; when both words are valid it replaces both by the step of the old pair and
returns 0, the flags unchanged; when either flag is 0 it raises E_UNSEEDED and neither word changes. The example is
R92's. -/
def Obligations.StepAdvancesTheGeneratorState : Prop :=
  (∀ data : Word, decode (commandWord 0x20 data) = .ok .step) ∧
    (∀ s : State, s.v0 = true → s.v1 = true → exec .step s =
      .next { s with
        s0 := (transition s.s0 s.s1).1, s1 := (transition s.s0 s.s1).2
        responses := s.responses ++ [⟨.ok, 0⟩] }) ∧
    (∀ s : State, s.v0 = false ∨ s.v1 = false →
      exec .step s = .next { s with responses := s.responses ++ [⟨.error .unseeded, 0⟩] }) ∧
    transition 1 2 = (2, 0x0000000000800043)

/-! ## Output formatting -/

/-- R104: mant52(w) is the top 52 bits; dbl64(w) has sign 0, exponent 1023 and that fraction, and stands for
1 + mant52(w) * 2^-52; out64(w) is dec64 of it and stands for exactly mant52(w) * 2^-52. -/
def Obligations.FormattingFunctions : Prop :=
  ∀ w : Word,
    (mant52 w).toNat = w.toNat / 2 ^ 12 ∧
      signField (dbl64 w) = false ∧ (expField (dbl64 w)).toNat = 1023 ∧ fracField (dbl64 w) = mant52 w ∧
      value (dbl64 w) = some (1 + gridValue (w.toNat / 2 ^ 12)) ∧
      out64 w = dec64 (mant52 w) ∧ value (out64 w) = some (gridValue (w.toNat / 2 ^ 12))

/-- R100: MANT is OP 0x30, its DATA ignored; when V0 = 1 it returns S0[63:12] in bits 51:0, whatever V1 is, and when
V0 = 0 it raises E_UNSEEDED; it writes nothing. -/
def Obligations.MantReturnsTheTopBitsOfS0 : Prop :=
  (∀ data : Word, decode (commandWord 0x30 data) = .ok .mant) ∧
    (∀ s : State, s.v0 = true → exec .mant s =
      .next { s with responses := s.responses ++ [⟨.ok, BitVec.ofNat 64 (s.s0.toNat / 2 ^ 12)⟩] }) ∧
    ∀ s : State, s.v0 = false →
      exec .mant s = .next { s with responses := s.responses ++ [⟨.error .unseeded, 0⟩] }

/-- R101: DBL is OP 0x31, its DATA ignored; when V0 = 1 it returns `0x3FF0000000000000 | (S0 >> 12)`, whose exponent
field is always 0x3FF, and when V0 = 0 it raises E_UNSEEDED; it writes nothing. -/
def Obligations.DblReturnsThePatternInOneToTwo : Prop :=
  (∀ data : Word, decode (commandWord 0x31 data) = .ok .dbl) ∧
    (∀ s : State, s.v0 = true → exec .dbl s =
      .next { s with responses := s.responses ++ [⟨.ok, 0x3FF0000000000000 ||| (s.s0 >>> 12)⟩] }) ∧
    (∀ s : State, s.v0 = false →
      exec .dbl s = .next { s with responses := s.responses ++ [⟨.error .unseeded, 0⟩] }) ∧
    (∀ w : Word, (dbl64 w).toNat / 2 ^ 52 = 0x3FF ∧
      0x3FF0000000000000 ≤ (dbl64 w).toNat ∧ (dbl64 w).toNat ≤ 0x3FFFFFFFFFFFFFFF) ∧
    dbl64 0 = 0x3FF0000000000000 ∧ dbl64 0xFFFFFFFFFFFFFFFF = 0x3FFFFFFFFFFFFFFF

/-- R102: OUT is OP 0x32, its DATA ignored; when V0 = 1 it returns the binary64 difference of dbl64(S0) and 1.0, and
when V0 = 0 it raises E_UNSEEDED; it writes nothing, so repeating it gives the same value; the corner values are
R102's. -/
def Obligations.OutReturnsTheOutputOfS0 : Prop :=
  (∀ data : Word, decode (commandWord 0x32 data) = .ok .out) ∧
    (∀ s : State, s.v0 = true → ∃ z, fsub64 (dbl64 s.s0) expOne = some z ∧
      exec .out s = .next { s with responses := s.responses ++ [⟨.ok, z⟩] } ∧
      (s.s0.toNat < 0x1000 → z = 0) ∧ (s.s0 = 0x1000 → z = 0x3CB0000000000000) ∧
      (s.s0 = 0x8000000000000000 → z = 0x3FE0000000000000) ∧
      (0xFFFFFFFFFFFFF000 ≤ s.s0.toNat → z = 0x3FEFFFFFFFFFFFFE) ∧
      ∃ r, value z = some r ∧ 0 ≤ r ∧ r < 1) ∧
    (∀ s : State, s.v0 = false →
      exec .out s = .next { s with responses := s.responses ++ [⟨.error .unseeded, 0⟩] }) ∧
    ∀ s t u : State, s.v0 = true → exec .out s = .next t → exec .out t = .next u →
      ∃ r, t.responses = s.responses ++ [r] ∧ u.responses = t.responses ++ [r]

/-- R103: NEXT is OP 0x33, its DATA ignored; when both words are valid it steps the pair and returns the output of the
new S0, as one command; when either flag is 0 it raises E_UNSEEDED, writes nothing and gives no output; it is STEP followed by
OUT with only OUT's response delivered. The examples are R103's. -/
def Obligations.NextStepsThenOutputs : Prop :=
  (∀ data : Word, decode (commandWord 0x33 data) = .ok .next) ∧
    (∀ s : State, s.v0 = true → s.v1 = true → exec .next s =
      .next { s with
        s0 := (transition s.s0 s.s1).1, s1 := (transition s.s0 s.s1).2
        responses := s.responses ++ [⟨.ok, dec64 (BitVec.ofNat 52 ((transition s.s0 s.s1).1.toNat / 2 ^ 12))⟩] }) ∧
    (∀ s : State, s.v0 = false ∨ s.v1 = false →
      exec .next s = .next { s with responses := s.responses ++ [⟨.error .unseeded, 0⟩] }) ∧
    (∀ s t u v : State, s.v0 = true → s.v1 = true →
      exec .next s = .next t → exec .step s = .next u → exec .out u = .next v →
        (t.s0, t.s1, t.v0, t.v1) = (v.s0, v.s1, v.v0, v.v1) ∧
          t.responses.getLast? = v.responses.getLast? ∧ t.responses.length + 1 = v.responses.length) ∧
    transition 2 0x0000000000800043 = (0x0000000000800043, 0x00000000018000C1) ∧
    out64 0x0000000000800043 = 0x3D60000000000000 ∧ transition 0 0 = (0, 0) ∧ out64 0 = 0

/-- R105: after SEED a, b the k-th of n NEXT commands returns out64 of the first component of the step applied k times
to (a, b), for every n, from every state and whatever the host does afterwards; the engine then holds the pair after n
steps, and the seed's own state0 is no output. -/
def Obligations.GeneratorEmitsTheSequence : Prop :=
  ∀ (n : Nat) (a b : Word) (s : State) (ws : List CommandWord) (rest : List HostEvent),
    assemble [.seed a.toNat b.toNat, .gen n] = some ws → s.input = ws.map .command ++ rest →
      ∃ t, Host.Core.run core (n + 2) s = .next t ∧ t.input = rest ∧
        t.responses = s.responses ++ [⟨.ok, 0⟩, ⟨.ok, 0⟩] ++ (outputs n a b).map (⟨.ok, ·⟩) ∧
        (t.s0, t.s1) = transitions n (a, b) ∧ t.v0 = true ∧ t.v1 = true

/-- R60: SEED is LD0 then LD1, PREDICT is LD0, LD1, NEXT, and GEN n is NEXT written n times; the engine returns one
response per expanded command, the last of PREDICT's being the prediction, the output after one step. -/
def Obligations.PseudoInstructionsExpand : Prop :=
  (∀ a b : Word,
      expandLine (.seed a.toNat b.toNat) = some [.ld0 a, .ld1 b] ∧
        expandLine (.predict a.toNat b.toNat) = some [.ld0 a, .ld1 b, .next]) ∧
    (∀ n, assembleLine (.gen n) = some (List.replicate n (encode .next))) ∧
    ∀ (a b : Word) (s : State) (ws : List CommandWord) (rest : List HostEvent),
      assembleLine (.predict a.toNat b.toNat) = some ws → s.input = ws.map .command ++ rest →
        ∃ t, Host.Core.run core 3 s = .next t ∧ t.input = rest ∧ (t.s0, t.s1) = transition a b ∧
          t.responses = s.responses ++ [⟨.ok, 0⟩, ⟨.ok, 0⟩, ⟨.ok, out64 (transition a b).1⟩]

/-- The low 12 bits of S0 show in no response of MANT, DBL and OUT, and those of S1 in no response of NEXT: states that
agree in the bits above give the same responses (43_output_format §Sequences, what the outputs reveal). -/
def Obligations.LowBitsAreInvisible : Prop :=
  ∀ (i : Instr) (s t u : State) (w : Word), exec i s = .next t →
    (i ∈ [Instr.mant, .dbl, .out] → w.toNat / 2 ^ 12 = s.s0.toNat / 2 ^ 12 →
      exec i { s with s0 := w } = .next u → t.responses = u.responses) ∧
    (i = .next → w.toNat / 2 ^ 12 = s.s1.toNat / 2 ^ 12 →
      exec i { s with s1 := w } = .next u → t.responses = u.responses)

/-! ## Errors -/

/-- R112: E_UNSEEDED is raised by RD0, MANT, DBL and OUT when V0 = 0, by RD1 when V1 = 0, by STEP and NEXT when either
flag is 0, and by nothing else; its effect is the response with RDATA = 0 and no other change. -/
def Obligations.UnseededIsRaisedExactlyThere : Prop :=
  ∀ (i : Instr) (s t : State), exec i s = .next t →
    ((∃ d, t.responses = s.responses ++ [⟨.error .unseeded, d⟩]) ↔
      (i ∈ [Instr.rd0, .mant, .dbl, .out] ∧ s.v0 = false) ∨ (i = .rd1 ∧ s.v1 = false) ∨
        (i ∈ [Instr.step, .next] ∧ (s.v0 = false ∨ s.v1 = false))) ∧
    ∀ d, t.responses = s.responses ++ [⟨.error .unseeded, d⟩] →
      t = { s with responses := s.responses ++ [⟨.error .unseeded, 0⟩] }

/-- R113: E_DOMAIN is raised by ENC when InUnit(DATA) is false, by DEC when DATA[63:52] != 0, and by nothing else; its
effect is the response with RDATA = 0 and no other change. -/
def Obligations.DomainErrorIsRaisedExactlyThere : Prop :=
  ∀ (i : Instr) (s t : State), exec i s = .next t →
    ((∃ d, t.responses = s.responses ++ [⟨.error .domain, d⟩]) ↔
      (∃ x, i = .enc x ∧ inUnit x = false) ∨ (∃ x, i = .dec x ∧ 2 ^ 52 ≤ x.toNat)) ∧
    ∀ d, t.responses = s.responses ++ [⟨.error .domain, d⟩] →
      t = { s with responses := s.responses ++ [⟨.error .domain, 0⟩] }

/-- R117: a command word answered with an error leaves S0, S1, V0 and V1 as they were, the response carries the code
and RDATA = 0, and nothing else is saved: but for the word taken and the response given, the state is the one before. -/
def Obligations.ErrorsWriteNoState : Prop :=
  ∀ (s t : State) (c : CommandWord) (rest : List HostEvent) (e : Error) (d : Word),
    s.input = .command c :: rest → step s = .next t → t.responses = s.responses ++ [⟨.error e, d⟩] →
      t = { s with input := rest, responses := s.responses ++ [⟨.error e, 0⟩] }

/-! ## The whole machine -/

/-- When the next event is a command word that decodes to i, a step is exec of i at the state with that word taken
from the input; nothing else stands around exec (00_scope §5, the execution model; the input list is log entry 3). -/
def Obligations.StepRunsTheDecodedCommand : Prop :=
  ∀ (s : State) (c : CommandWord) (rest : List HostEvent) (i : Instr),
    s.input = .command c :: rest → decode c = .ok i → step s = exec i { s with input := rest }

/-- With nothing presented the engine holds its state (60_exceptions §8, 10_state §1; that a step then answers the same
state is log entry 3). -/
def Obligations.EngineHoldsItsStateBetweenCommands : Prop :=
  ∀ s : State, s.input = [] → step s = .next s

/-- Every step of every state answers a next state: no word is without a defined response, nothing faults, and no
command is refused (60_exceptions §1, 70_reset_and_hazards §4). -/
def Obligations.EveryStepAnswers : Prop :=
  (∀ s : State, ∃ t, step s = .next t) ∧ ∀ (i : Instr) (s : State), ∃ t, exec i s = .next t

/-- What each command leaves unchanged. Every command leaves the input and appends one response. Only LD0, CLR, STEP
and NEXT may change S0, only LD1, CLR, STEP and NEXT may change S1, only LD0 and CLR V0, only LD1 and CLR V1, and only
CLR the counter of free values (10_state §1, §3; 20_memory §4). -/
def Obligations.FrameOfEveryCommand : Prop :=
  ∀ (i : Instr) (s t : State), exec i s = .next t →
    t.input = s.input ∧ (∃ r, t.responses = s.responses ++ [r]) ∧
      ((∀ data, i ≠ .ld0 data) → i ∉ [Instr.clr, .step, .next] → t.s0 = s.s0) ∧
      ((∀ data, i ≠ .ld1 data) → i ∉ [Instr.clr, .step, .next] → t.s1 = s.s1) ∧
      ((∀ data, i ≠ .ld0 data) → i ≠ .clr → t.v0 = s.v0) ∧
      ((∀ data, i ≠ .ld1 data) → i ≠ .clr → t.v1 = s.v1) ∧
      (i ≠ .clr → t.fresh = s.fresh)

/-- R23: a state word changes only by a load of it, a STEP or NEXT, a CLR or a reset; in particular not between
commands. -/
def Obligations.StateWordsChangeOnlyByTheListedWrites : Prop :=
  ∀ s t : State, step s = .next t →
    (t.s0 ≠ s.s0 → ∃ e rest, s.input = e :: rest ∧ (e.LoadsS0 ∨ e.Steps ∨ e.Discards)) ∧
      (t.s1 ≠ s.s1 → ∃ e rest, s.input = e :: rest ∧ (e.LoadsS1 ∨ e.Steps ∨ e.Discards))

/-- Each event sets, clears or keeps each flag: LD0 sets V0 and LD1 sets V1, reset and CLR clear both, and every other
event keeps both, STEP and NEXT included (10_state §3). -/
def Obligations.FlagsAreSetAndClearedByTheListedEvents : Prop :=
  ∀ (s t : State) (e : HostEvent) (rest : List HostEvent), s.input = e :: rest → step s = .next t →
    (e.LoadsS0 → t.v0 = true ∧ t.v1 = s.v1) ∧ (e.LoadsS1 → t.v1 = true ∧ t.v0 = s.v0) ∧
      (e.Discards → t.v0 = false ∧ t.v1 = false) ∧
      (¬ e.LoadsS0 → ¬ e.Discards → t.v0 = s.v0) ∧ (¬ e.LoadsS1 → ¬ e.Discards → t.v1 = s.v1)

/-- After any events, V0 = 1 exactly when S0 has been loaded with no reset or CLR since, or was valid before them and
they hold no reset or CLR; the same of V1 and S1 (10_state §3). -/
def Obligations.FlagMeansLoadedSinceTheLastDiscard : Prop :=
  ∀ (events rest : List HostEvent) (s t : State), s.input = events ++ rest →
    Host.Core.run core events.length s = .next t →
      (t.v0 = true ↔
        (∃ before e after, events = before ++ e :: after ∧ e.LoadsS0 ∧ ∀ e' ∈ after, ¬ e'.Discards) ∨
          (s.v0 = true ∧ ∀ e' ∈ events, ¬ e'.Discards)) ∧
      (t.v1 = true ↔
        (∃ before e after, events = before ++ e :: after ∧ e.LoadsS1 ∧ ∀ e' ∈ after, ¬ e'.Discards) ∨
          (s.v1 = true ∧ ∀ e' ∈ events, ¬ e'.Discards))

/-- R26: no command can observe an unspecified word. From two states that differ in the content of words whose flag is
0 (and in the counter of free values) any number of steps, whatever the host presents, gives the same responses, the
same flags and the same content of every valid word. -/
def Obligations.UnspecifiedWordsAreUnobservable : Prop :=
  ∀ (k : Nat) (s t : State), s.Agree t →
    ∃ s' t', Host.Core.run core k s = .next s' ∧ Host.Core.run core k t = .next t' ∧ s'.Agree t'

/-- The commands that write no state are idempotent: such a command changes nothing but the response it appends, and
executing it again appends the same response (20_memory §4, an inference the spec marks as derived). -/
def Obligations.ReadsAreIdempotent : Prop :=
  ∀ (x : Word) (i : Instr) (s t u : State), i ∈ readingCommands x → exec i s = .next t → exec i t = .next u →
    ∃ r, t = { s with responses := s.responses ++ [r] } ∧ u = { s with responses := s.responses ++ [r, r] }

/-- Each step moves responses and pending commands in balance: a command is answered by exactly one response, a reset
by none, and responses delivered before stay as they are (70_reset_and_hazards §1, §3; 20_memory §5). -/
def Obligations.OneResponsePerCommand : Prop :=
  ∀ s t : State, step s = .next t →
    ∃ new, t.responses = s.responses ++ new ∧
      new.length + pendingCommands t.input = pendingCommands s.input ∧ new.length ≤ 1

/-- A response reflects the earlier commands and none of the later ones: what a step does to the engine and what it
answers are the same whatever the host presents afterwards (20_memory §5). -/
def Obligations.LaterEventsDoNotReachAResponse : Prop :=
  ∀ (s t : State) (e : HostEvent) (rest rest' : List HostEvent), s.input = e :: rest → step s = .next t →
    step { s with input := e :: rest' } = .next { t with input := rest' }

/-- Every step keeps the responses legal: none carries a result beside an error (30_encoding §2, 60_exceptions §4). -/
def Obligations.StepKeepsResponsesLegal : Prop :=
  ∀ s t : State, s.ResponsesLegal → step s = .next t → t.ResponsesLegal

/-- The responses are legal in the reset state (there are none; log entry 4). -/
def Obligations.ResetResponsesAreLegal : Prop := State.reset.ResponsesLegal

/-! ## Reset -/

/-- R130: a reset gives no response, clears both flags and leaves the words unspecified (the statement says nothing of
them); it has the same effect on the state as CLR, but for CLR's response. -/
def Obligations.ResetEventDiscardsTheGeneratorState : Prop :=
  ∀ (s : State) (rest : List HostEvent), s.input = .reset :: rest →
    ∃ t, step s = .next t ∧ t.v0 = false ∧ t.v1 = false ∧ t.responses = s.responses ∧ t.input = rest ∧
      exec .clr { s with input := rest } = .next { t with responses := s.responses ++ [⟨.ok, 0⟩] }

/-- After reset V0 = 0, V1 = 0 and STATUS_REG = 0; nothing is said of S0 and S1, and any other content of them gives a
state no command can tell apart (10_state §8, 70_reset_and_hazards §1; the empty ports are log entries 3 and 4). -/
def Obligations.ResetStateIsUnseeded : Prop :=
  State.reset.v0 = false ∧ State.reset.v1 = false ∧ statusReg State.reset = 0 ∧
    ∀ a b : Word, State.reset.Agree { State.reset with s0 := a, s1 := b }
end

