-- ==== Sys2Proof/Laws/Binary64.lean ====
section
/-! SUPPORT. The fields of a binary64 pattern as numbers, and what the rounding step of the codec guarantees. -/

namespace Sys2Proof.Machine

theorem expField_toNat (x : Word) : (expField x).toNat = x.toNat / 2 ^ 52 % 2 ^ 11 := by
  simp [expField, BitVec.extractLsb'_toNat, Nat.shiftRight_eq_div_pow]

theorem fracField_toNat (x : Word) : (fracField x).toNat = x.toNat % 2 ^ 52 := by
  simp [fracField, BitVec.extractLsb'_toNat]

theorem highField_toNat (x : Word) : (highField x).toNat = x.toNat / 2 ^ 52 := by
  have := x.isLt
  simp only [highField, BitVec.extractLsb'_toNat, Nat.shiftRight_eq_div_pow]
  omega

theorem signField_eq (x : Word) : signField x = decide (2 ^ 63 ≤ x.toNat) := by
  exact (BitVec.msb_eq_getLsbD_last x).symm.trans (BitVec.msb_eq_decide x)

theorem zext64_toNat (m : Mantissa) : (zext64 m).toNat = m.toNat := by
  have := m.isLt
  simp only [zext64, BitVec.toNat_setWidth]
  omega

theorem mant52_toNat (w : Word) : (mant52 w).toNat = w.toNat / 2 ^ 12 := by
  have := w.isLt
  simp only [mant52, discardedBits, shr64, BitVec.toNat_setWidth, BitVec.toNat_ushiftRight,
    Nat.shiftRight_eq_div_pow]
  omega

/-- The rounding step goes up or stays, and never further than half a unit; a tie ends on an even number. -/
theorem roundHalfEven_spec (sig s : Nat) (hs : 1 ≤ s) :
    roundHalfEven sig s * 2 ^ s ≤ sig + 2 ^ (s - 1) ∧ sig ≤ roundHalfEven sig s * 2 ^ s + 2 ^ (s - 1) ∧
      ((roundHalfEven sig s * 2 ^ s = sig + 2 ^ (s - 1) ∨ sig = roundHalfEven sig s * 2 ^ s + 2 ^ (s - 1)) →
        roundHalfEven sig s % 2 = 0) := by
  obtain ⟨k, rfl⟩ : ∃ k, s = k + 1 := ⟨s - 1, by omega⟩
  have hp : 2 ^ (k + 1) = 2 * 2 ^ k := by rw [Nat.pow_succ]; omega
  have hk : 0 < 2 ^ k := Nat.two_pow_pos k
  have hd := Nat.div_add_mod sig (2 ^ (k + 1))
  have hm := Nat.mod_lt sig (Nat.two_pow_pos (k + 1))
  simp only [roundHalfEven, Nat.add_sub_cancel]
  generalize sig / 2 ^ (k + 1) = q at *
  generalize sig % 2 ^ (k + 1) = r at *
  generalize 2 ^ (k + 1) = m at *
  have hc : q * m = m * q := Nat.mul_comm q m
  split
  · next h => rw [Nat.add_mul, Nat.one_mul]; omega
  · next h => omega

end Sys2Proof.Machine
end

