-- ==== Sys2Proof/Laws/Decode.lean ====
section
/-! SUPPORT. The fields of a command word and the opcode map. -/

namespace Sys2Proof

/-- The bits of `OP ‖ DATA`: DATA below bit 64, OP from there on. -/
theorem commandWord_getLsbD (op : Opcode) (data : Word) (i : Nat) :
    (commandWord op data).getLsbD i = if i < 64 then data.getLsbD i else op.getLsbD (i - 64) :=
  BitVec.getLsbD_append

@[simp] theorem opField_commandWord (op : Opcode) (data : Word) : opField (commandWord op data) = op := by
  ext i hi
  simp [opField, commandWord_getLsbD, BitVec.getLsbD_eq_getElem hi]

@[simp] theorem dataField_commandWord (op : Opcode) (data : Word) : dataField (commandWord op data) = data := by
  ext i hi
  simp [dataField, commandWord_getLsbD, hi]

/-- A command word is its two fields. -/
theorem commandWord_fields (c : CommandWord) : commandWord (opField c) (dataField c) = c := by
  apply BitVec.eq_of_getLsbD_eq
  intro i hi
  rw [commandWord_getLsbD]
  split
  · next h => simp [dataField, h]
  · next h =>
    have h8 : i - 64 < 8 := by omega
    have hs : 64 + (i - 64) = i := by omega
    simp [opField, h8, hs]

@[simp] theorem ofOpcode_opcode (m : Mnemonic) : Mnemonic.ofOpcode m.opcode = some m := by
  cases m <;> decide

/-- The opcode map has one name per OP value. -/
theorem opcode_of_ofOpcode {op : Opcode} {m : Mnemonic} (h : Mnemonic.ofOpcode op = some m) : m.opcode = op := by
  simpa using List.find?_some h

/-- Decoding a word whose OP names a command. -/
theorem decode_of_ofOpcode {c : CommandWord} {m : Mnemonic} (h : Mnemonic.ofOpcode (opField c) = some m) :
    decode c = .ok (Instr.ofParts m (dataField c)) := by
  simp [decode, h]

/-- Decoding a word whose OP names none. -/
theorem decode_of_reserved {c : CommandWord} (h : Mnemonic.ofOpcode (opField c) = none) :
    decode c = .error (.reservedOpcode (opField c)) := by
  simp [decode, h]

end Sys2Proof
end

