-- ==== Sys2Proof/Laws/State.lean ====
section
/-! SUPPORT. One lemma per field of `State` for each named update, so that no proof unfolds a record update. -/

namespace Sys2Proof.Machine

@[simp] theorem respond_s0 (st : Status) (d : Word) (s : State) :
    (respond st d s).s0 = s.s0 := rfl
@[simp] theorem respond_s1 (st : Status) (d : Word) (s : State) :
    (respond st d s).s1 = s.s1 := rfl
@[simp] theorem respond_v0 (st : Status) (d : Word) (s : State) :
    (respond st d s).v0 = s.v0 := rfl
@[simp] theorem respond_v1 (st : Status) (d : Word) (s : State) :
    (respond st d s).v1 = s.v1 := rfl
@[simp] theorem respond_fresh (st : Status) (d : Word) (s : State) :
    (respond st d s).fresh = s.fresh := rfl
@[simp] theorem respond_input (st : Status) (d : Word) (s : State) :
    (respond st d s).input = s.input := rfl
@[simp] theorem respond_responses (st : Status) (d : Word) (s : State) :
    (respond st d s).responses = s.responses ++ [⟨st, d⟩] := rfl

@[simp] theorem raise_s0 (e : Error) (s : State) :
    (raise e s).s0 = s.s0 := rfl
@[simp] theorem raise_s1 (e : Error) (s : State) :
    (raise e s).s1 = s.s1 := rfl
@[simp] theorem raise_v0 (e : Error) (s : State) :
    (raise e s).v0 = s.v0 := rfl
@[simp] theorem raise_v1 (e : Error) (s : State) :
    (raise e s).v1 = s.v1 := rfl
@[simp] theorem raise_fresh (e : Error) (s : State) :
    (raise e s).fresh = s.fresh := rfl
@[simp] theorem raise_input (e : Error) (s : State) :
    (raise e s).input = s.input := rfl
@[simp] theorem raise_responses (e : Error) (s : State) :
    (raise e s).responses = s.responses ++ [⟨.error e, 0⟩] := rfl

@[simp] theorem loadS0_s0 (v : Word) (s : State) :
    (loadS0 v s).s0 = v := rfl
@[simp] theorem loadS0_s1 (v : Word) (s : State) :
    (loadS0 v s).s1 = s.s1 := rfl
@[simp] theorem loadS0_v0 (v : Word) (s : State) :
    (loadS0 v s).v0 = true := rfl
@[simp] theorem loadS0_v1 (v : Word) (s : State) :
    (loadS0 v s).v1 = s.v1 := rfl
@[simp] theorem loadS0_fresh (v : Word) (s : State) :
    (loadS0 v s).fresh = s.fresh := rfl
@[simp] theorem loadS0_input (v : Word) (s : State) :
    (loadS0 v s).input = s.input := rfl
@[simp] theorem loadS0_responses (v : Word) (s : State) :
    (loadS0 v s).responses = s.responses := rfl

@[simp] theorem loadS1_s0 (v : Word) (s : State) :
    (loadS1 v s).s0 = s.s0 := rfl
@[simp] theorem loadS1_s1 (v : Word) (s : State) :
    (loadS1 v s).s1 = v := rfl
@[simp] theorem loadS1_v0 (v : Word) (s : State) :
    (loadS1 v s).v0 = s.v0 := rfl
@[simp] theorem loadS1_v1 (v : Word) (s : State) :
    (loadS1 v s).v1 = true := rfl
@[simp] theorem loadS1_fresh (v : Word) (s : State) :
    (loadS1 v s).fresh = s.fresh := rfl
@[simp] theorem loadS1_input (v : Word) (s : State) :
    (loadS1 v s).input = s.input := rfl
@[simp] theorem loadS1_responses (v : Word) (s : State) :
    (loadS1 v s).responses = s.responses := rfl

@[simp] theorem storePair_s0 (p : Word × Word) (s : State) :
    (storePair p s).s0 = p.1 := rfl
@[simp] theorem storePair_s1 (p : Word × Word) (s : State) :
    (storePair p s).s1 = p.2 := rfl
@[simp] theorem storePair_v0 (p : Word × Word) (s : State) :
    (storePair p s).v0 = s.v0 := rfl
@[simp] theorem storePair_v1 (p : Word × Word) (s : State) :
    (storePair p s).v1 = s.v1 := rfl
@[simp] theorem storePair_fresh (p : Word × Word) (s : State) :
    (storePair p s).fresh = s.fresh := rfl
@[simp] theorem storePair_input (p : Word × Word) (s : State) :
    (storePair p s).input = s.input := rfl
@[simp] theorem storePair_responses (p : Word × Word) (s : State) :
    (storePair p s).responses = s.responses := rfl

@[simp] theorem discard_s0 (s : State) :
    (discard s).s0 = Config.freeWord s.fresh := rfl
@[simp] theorem discard_s1 (s : State) :
    (discard s).s1 = Config.freeWord (s.fresh + 1) := rfl
@[simp] theorem discard_v0 (s : State) :
    (discard s).v0 = false := rfl
@[simp] theorem discard_v1 (s : State) :
    (discard s).v1 = false := rfl
@[simp] theorem discard_fresh (s : State) :
    (discard s).fresh = s.fresh + 2 := rfl
@[simp] theorem discard_input (s : State) :
    (discard s).input = s.input := rfl
@[simp] theorem discard_responses (s : State) :
    (discard s).responses = s.responses := rfl

@[simp] theorem present_s0 (cs : List CommandWord) (s : State) :
    (present cs s).s0 = s.s0 := rfl
@[simp] theorem present_s1 (cs : List CommandWord) (s : State) :
    (present cs s).s1 = s.s1 := rfl
@[simp] theorem present_v0 (cs : List CommandWord) (s : State) :
    (present cs s).v0 = s.v0 := rfl
@[simp] theorem present_v1 (cs : List CommandWord) (s : State) :
    (present cs s).v1 = s.v1 := rfl
@[simp] theorem present_fresh (cs : List CommandWord) (s : State) :
    (present cs s).fresh = s.fresh := rfl
@[simp] theorem present_input (cs : List CommandWord) (s : State) :
    (present cs s).input = s.input ++ cs.map .command := rfl
@[simp] theorem present_responses (cs : List CommandWord) (s : State) :
    (present cs s).responses = s.responses := rfl

@[simp] theorem presentFirst_s0 (c : CommandWord) (s : State) :
    (presentFirst c s).s0 = s.s0 := rfl
@[simp] theorem presentFirst_s1 (c : CommandWord) (s : State) :
    (presentFirst c s).s1 = s.s1 := rfl
@[simp] theorem presentFirst_v0 (c : CommandWord) (s : State) :
    (presentFirst c s).v0 = s.v0 := rfl
@[simp] theorem presentFirst_v1 (c : CommandWord) (s : State) :
    (presentFirst c s).v1 = s.v1 := rfl
@[simp] theorem presentFirst_fresh (c : CommandWord) (s : State) :
    (presentFirst c s).fresh = s.fresh := rfl
@[simp] theorem presentFirst_input (c : CommandWord) (s : State) :
    (presentFirst c s).input = .command c :: s.input := rfl
@[simp] theorem presentFirst_responses (c : CommandWord) (s : State) :
    (presentFirst c s).responses = s.responses := rfl

end Sys2Proof.Machine
end

