-- ==== Sys2Proof/Laws/Ops.lean ====
section
/-! SUPPORT. What each shared operation can do, said once: the readers of the state words, the primitives, and a step
of the machine. -/

namespace Sys2Proof.Machine

theorem withS0_of_valid {s : State} (use : Word → State) (h : s.v0 = true) :
    withS0 s use = .next (use s.s0) := by simp [withS0, h]

theorem withS0_of_invalid {s : State} (use : Word → State) (h : s.v0 = false) :
    withS0 s use = .next (raise .unseeded s) := by simp [withS0, h]

theorem withS1_of_valid {s : State} (use : Word → State) (h : s.v1 = true) :
    withS1 s use = .next (use s.s1) := by simp [withS1, h]

theorem withS1_of_invalid {s : State} (use : Word → State) (h : s.v1 = false) :
    withS1 s use = .next (raise .unseeded s) := by simp [withS1, h]

theorem withPair_of_valid {s : State} (use : Word → Word → State) (h0 : s.v0 = true) (h1 : s.v1 = true) :
    withPair s use = .next (use s.s0 s.s1) := by simp [withPair, h0, h1]

theorem withPair_of_invalid {s : State} (use : Word → Word → State) (h : s.v0 = false ∨ s.v1 = false) :
    withPair s use = .next (raise .unseeded s) := by
  rcases h with h | h <;> simp [withPair, h]

/-- Everything `withS0` can answer. -/
theorem withS0_cases {s t : State} {use : Word → State} (h : withS0 s use = .next t) :
    (s.v0 = true ∧ t = use s.s0) ∨ (s.v0 = false ∧ t = raise .unseeded s) := by
  cases hv : s.v0 <;> simp [withS0, hv] at h <;> simp [h]

/-- Everything `withS1` can answer. -/
theorem withS1_cases {s t : State} {use : Word → State} (h : withS1 s use = .next t) :
    (s.v1 = true ∧ t = use s.s1) ∨ (s.v1 = false ∧ t = raise .unseeded s) := by
  cases hv : s.v1 <;> simp [withS1, hv] at h <;> simp [h]

/-- Everything `withPair` can answer. -/
theorem withPair_cases {s t : State} {use : Word → Word → State} (h : withPair s use = .next t) :
    (s.v0 = true ∧ s.v1 = true ∧ t = use s.s0 s.s1) ∨
      ((s.v0 = false ∨ s.v1 = false) ∧ t = raise .unseeded s) := by
  cases h0 : s.v0 <;> cases h1 : s.v1 <;> simp [withPair, h0, h1] at h <;> simp [h]

/-- Everything `withDomain` can answer. -/
theorem withDomain_cases {s t : State} {inDomain : Bool} {result : Word}
    (h : withDomain inDomain result s = .next t) :
    (inDomain = true ∧ t = respond .ok result s) ∨ (inDomain = false ∧ t = raise .domain s) := by
  cases inDomain <;> simp [withDomain] at h <;> simp [h]

theorem xor64_toNat (a b : Word) : (xor64 a b).toNat = a.toNat ^^^ b.toNat := BitVec.toNat_xor a b

theorem shl64_toNat (a : Word) (n : Nat) : (shl64 a n).toNat = a.toNat * 2 ^ n % 2 ^ 64 := by
  simp [shl64, BitVec.toNat_shiftLeft, Nat.shiftLeft_eq]

theorem shr64_toNat (a : Word) (n : Nat) : (shr64 a n).toNat = a.toNat / 2 ^ n := by
  simp [shr64, BitVec.toNat_ushiftRight, Nat.shiftRight_eq_div_pow]

/-- Everything a step can do: hold the state, take a reset, or execute one command word. -/
theorem step_cases {s t : State} (h : step s = .next t) :
    (s.input = [] ∧ t = s) ∨
      (∃ rest, s.input = .reset :: rest ∧ t = discard { s with input := rest }) ∨
      (∃ c rest, s.input = .command c :: rest ∧ executeWord c { s with input := rest } = .next t) := by
  unfold step serveNext at h
  split at h
  · next hi => cases h; exact .inl ⟨hi, rfl⟩
  · next c rest hi => exact .inr (.inr ⟨c, rest, hi, h⟩)
  · next rest hi => cases h; exact .inr (.inl ⟨rest, hi, rfl⟩)

/-- Everything one command word can do: run the command it encodes, or raise E_ILLEGAL. -/
theorem executeWord_cases {c : CommandWord} {s t : State} (h : executeWord c s = .next t) :
    (∃ i, decode c = .ok i ∧ exec i s = .next t) ∨
      (∃ r, decode c = .error r ∧ t = raise .illegal s) := by
  unfold executeWord at h
  split at h
  · next i hd => exact .inl ⟨i, hd, h⟩
  · next r hd => cases h; exact .inr ⟨r, hd, rfl⟩

/-- A run whose first step answers goes on from that answer. -/
theorem run_of_step {s t : State} (k : Nat) (h : step s = .next t) :
    Host.Core.run core (k + 1) s = Host.Core.run core k t := by
  simp only [Host.Core.run, show core.step s = .next t from h]

end Sys2Proof.Machine
end

