-- ==== Sys2Proof/Laws/Meanings.lean ====
section
/-! SUPPORT. Each command as its meaning over the shared operations, and what every command has in common. -/

namespace Sys2Proof.Machine

theorem exec_ld0 (data : Word) (s : State) : exec (.ld0 data) s = .next (respond .ok 0 (loadS0 data s)) := rfl
theorem exec_ld1 (data : Word) (s : State) : exec (.ld1 data) s = .next (respond .ok 0 (loadS1 data s)) := rfl
theorem exec_rd0 (s : State) : exec .rd0 s = withS0 s fun w => respond .ok w s := rfl
theorem exec_rd1 (s : State) : exec .rd1 s = withS1 s fun w => respond .ok w s := rfl
theorem exec_rdst (s : State) : exec .rdst s = .next (respond .ok (statusReg s) s) := rfl
theorem exec_clr (s : State) : exec .clr s = .next (respond .ok 0 (discard s)) := rfl
theorem exec_enc (data : Word) (s : State) :
    exec (.enc data) s = withDomain (inUnit data) (zext64 (enc52 data)) s := rfl
theorem exec_dec (data : Word) (s : State) :
    exec (.dec data) s = withDomain (highField data == 0) (dec64 (fracField data)) s := rfl
theorem exec_step (s : State) :
    exec .step s = withPair s fun a b => respond .ok 0 (storePair (transition a b) s) := rfl
theorem exec_mant (s : State) : exec .mant s = withS0 s fun w => respond .ok (zext64 (mant52 w)) s := rfl
theorem exec_dbl (s : State) : exec .dbl s = withS0 s fun w => respond .ok (dbl64 w) s := rfl
theorem exec_out (s : State) : exec .out s = withS0 s fun w => respond .ok (out64 w) s := rfl
theorem exec_next (s : State) : exec .next s =
    withPair s fun a b => respond .ok (out64 (transition a b).1) (storePair (transition a b) s) := rfl

/-- Everything a command can do: raise an error and change nothing, answer without writing, load a word, discard the
state, or step it. -/
theorem exec_cases {i : Instr} {s t : State} (h : exec i s = .next t) :
    (∃ e, t = raise e s) ∨
      (∃ d, t = respond .ok d s ∧
        (i ∈ [Instr.rd0, .rd1, .rdst, .mant, .dbl, .out] ∨ (∃ x, i = .enc x) ∨ ∃ x, i = .dec x)) ∨
      (∃ data, i = .ld0 data ∧ t = respond .ok 0 (loadS0 data s)) ∨
      (∃ data, i = .ld1 data ∧ t = respond .ok 0 (loadS1 data s)) ∨
      (i = .clr ∧ t = respond .ok 0 (discard s)) ∨
      ((i = .step ∨ i = .next) ∧ s.v0 = true ∧ s.v1 = true ∧
        ∃ d, t = respond .ok d (storePair (transition s.s0 s.s1) s)) := by
  cases i with
  | ld0 data => cases h; exact .inr (.inr (.inl ⟨data, rfl, rfl⟩))
  | ld1 data => cases h; exact .inr (.inr (.inr (.inl ⟨data, rfl, rfl⟩)))
  | clr => cases h; exact .inr (.inr (.inr (.inr (.inl ⟨rfl, rfl⟩))))
  | rdst => cases h; exact .inr (.inl ⟨_, rfl, by simp⟩)
  | rd0 =>
    rcases withS0_cases ((exec_rd0 s).symm.trans h) with ⟨-, rfl⟩ | ⟨-, rfl⟩
    · exact .inr (.inl ⟨_, rfl, by simp⟩)
    · exact .inl ⟨_, rfl⟩
  | rd1 =>
    rcases withS1_cases ((exec_rd1 s).symm.trans h) with ⟨-, rfl⟩ | ⟨-, rfl⟩
    · exact .inr (.inl ⟨_, rfl, by simp⟩)
    · exact .inl ⟨_, rfl⟩
  | mant =>
    rcases withS0_cases ((exec_mant s).symm.trans h) with ⟨-, rfl⟩ | ⟨-, rfl⟩
    · exact .inr (.inl ⟨_, rfl, by simp⟩)
    · exact .inl ⟨_, rfl⟩
  | dbl =>
    rcases withS0_cases ((exec_dbl s).symm.trans h) with ⟨-, rfl⟩ | ⟨-, rfl⟩
    · exact .inr (.inl ⟨_, rfl, by simp⟩)
    · exact .inl ⟨_, rfl⟩
  | out =>
    rcases withS0_cases ((exec_out s).symm.trans h) with ⟨-, rfl⟩ | ⟨-, rfl⟩
    · exact .inr (.inl ⟨_, rfl, by simp⟩)
    · exact .inl ⟨_, rfl⟩
  | enc x =>
    rcases withDomain_cases ((exec_enc x s).symm.trans h) with ⟨-, rfl⟩ | ⟨-, rfl⟩
    · exact .inr (.inl ⟨_, rfl, .inr (.inl ⟨x, rfl⟩)⟩)
    · exact .inl ⟨_, rfl⟩
  | dec x =>
    rcases withDomain_cases ((exec_dec x s).symm.trans h) with ⟨-, rfl⟩ | ⟨-, rfl⟩
    · exact .inr (.inl ⟨_, rfl, .inr (.inr ⟨x, rfl⟩)⟩)
    · exact .inl ⟨_, rfl⟩
  | step =>
    rcases withPair_cases ((exec_step s).symm.trans h) with ⟨h0, h1, rfl⟩ | ⟨-, rfl⟩
    · exact .inr (.inr (.inr (.inr (.inr ⟨.inl rfl, h0, h1, _, rfl⟩))))
    · exact .inl ⟨_, rfl⟩
  | next =>
    rcases withPair_cases ((exec_next s).symm.trans h) with ⟨h0, h1, rfl⟩ | ⟨-, rfl⟩
    · exact .inr (.inr (.inr (.inr (.inr ⟨.inr rfl, h0, h1, _, rfl⟩))))
    · exact .inl ⟨_, rfl⟩

/-- Every command leaves the input as it is and appends one response. -/
theorem exec_port {i : Instr} {s t : State} (h : exec i s = .next t) :
    t.input = s.input ∧ ∃ r, t.responses = s.responses ++ [r] := by
  rcases exec_cases h with ⟨_, rfl⟩ | ⟨_, rfl, -⟩ | ⟨_, -, rfl⟩ | ⟨_, -, rfl⟩ | ⟨-, rfl⟩ | ⟨-, -, -, _, rfl⟩ <;>
    simp

end Sys2Proof.Machine
end

