-- ==== Sys2Proof/Laws/PerInstr.lean ====
section
/-! SUPPORT. The canonical encoding of every command, constructor by constructor: its OP is the opcode map's, and the
DATA of a format N command is 0 (30_encoding R52, R56, R59). -/

namespace Sys2Proof.Laws.CanonicalEncoding

/-- The canonical word of a command carries its opcode and its operand, and no operand where its format has none. -/
def Statement (i : Instr) : Prop :=
  opField (encode i) = i.mnemonic.opcode ∧ dataField (encode i) = i.operand ∧
    (i.mnemonic.format = .N → dataField (encode i) = 0)

theorem of_operand {i : Instr} (h : i.mnemonic.format = .N → i.operand = 0) : Statement i := by
  simpa [Statement, encode] using h

theorem ld0 (data : Word) : Statement (.ld0 data) := of_operand nofun
theorem ld1 (data : Word) : Statement (.ld1 data) := of_operand nofun
theorem rd0 : Statement .rd0 := of_operand fun _ => rfl
theorem rd1 : Statement .rd1 := of_operand fun _ => rfl
theorem rdst : Statement .rdst := of_operand fun _ => rfl
theorem clr : Statement .clr := of_operand fun _ => rfl
theorem enc (data : Word) : Statement (.enc data) := of_operand nofun
theorem dec (data : Word) : Statement (.dec data) := of_operand nofun
theorem step : Statement .step := of_operand fun _ => rfl
theorem mant : Statement .mant := of_operand fun _ => rfl
theorem dbl : Statement .dbl := of_operand fun _ => rfl
theorem out : Statement .out := of_operand fun _ => rfl
theorem next : Statement .next := of_operand fun _ => rfl

end Sys2Proof.Laws.CanonicalEncoding
end

