-- ==== Sys2Proof/Tests/Slice0.lean ====
section
/-! SUPPORT. Tests against the spec's own examples and vectors (95_test_vectors; each theorem names its row), the
smoke test of the listing checks, and for every statement with hypotheses a state and operands that meet them. -/

namespace Sys2Proof.Tests

open Sys2Proof Sys2Proof.Machine

/-- A state with this pair, both words valid, nothing presented, nothing answered. -/
def seeded (a b : Word) : State :=
  { s0 := a, s1 := b, v0 := true, v1 := true, fresh := 0, input := [], responses := [] }

/-- A state with these words and flags. -/
def holding (a b : Word) (v0 v1 : Bool) : State :=
  { s0 := a, s1 := b, v0 := v0, v1 := v1, fresh := 0, input := [], responses := [] }

/-- The response word of the command just executed, as a number. -/
def answered : Answer → Option Nat
  | .next t => t.responses.getLast?.map fun r => (responseWord r).toNat
  | _ => none

/-- The pair held after the command. -/
def held : Answer → Option (Word × Word)
  | .next t => some (t.s0, t.s1)
  | _ => none

/-- The flags after the command. -/
def flags : Answer → Option (Bool × Bool)
  | .next t => some (t.v0, t.v1)
  | _ => none

/-! ## Decoding words written out from the encoding tables (R51, R56) -/

theorem test_decode_state_access :
    decode 0x010000000000000001#72 = .ok (.ld0 1) ∧ decode 0x02FFFFFFFFFFFFFFFF#72 = .ok (.ld1 0xFFFFFFFFFFFFFFFF) ∧
      decode 0x030000000000000000#72 = .ok .rd0 ∧ decode 0x040000000000000000#72 = .ok .rd1 ∧
      decode 0x050000000000000000#72 = .ok .rdst ∧ decode 0x060000000000000000#72 = .ok .clr := by decide

theorem test_decode_codec :
    decode 0x103FE0000000000000#72 = .ok (.enc 0x3FE0000000000000) ∧
      decode 0x110008000000000000#72 = .ok (.dec 0x0008000000000000) := by decide

theorem test_decode_transition_and_output :
    decode 0x200000000000000000#72 = .ok .step ∧ decode 0x300000000000000000#72 = .ok .mant ∧
      decode 0x310000000000000000#72 = .ok .dbl ∧ decode 0x320000000000000000#72 = .ok .out ∧
      decode 0x330000000000000000#72 = .ok .next := by decide

/-- Vector A12: the DATA of a format N word is ignored. -/
theorem test_decode_ignores_data : decode 0x03DEADBEEF00000000#72 = .ok .rd0 := by decide

/-- Vectors I1 to I7: the reserved words. -/
theorem test_decode_rejects_reserved :
    decode 0x000000000000000000#72 = .error (.reservedOpcode 0x00) ∧
      decode 0x070000000000001234#72 = .error (.reservedOpcode 0x07) ∧
      decode 0x120000000000000000#72 = .error (.reservedOpcode 0x12) ∧
      decode 0x210000000000000000#72 = .error (.reservedOpcode 0x21) ∧
      decode 0x340000000000000000#72 = .error (.reservedOpcode 0x34) ∧
      decode 0xFFFFFFFFFFFFFFFFFF#72 = .error (.reservedOpcode 0xFF) := by decide

/-- The bytes of R42: the OP byte first, DATA most significant byte first. -/
theorem test_bytes_most_significant_first :
    commandBytes 0x103FE0000000000000#72 = [0x10, 0x3F, 0xE0, 0, 0, 0, 0, 0, 0] ∧
      decodeBytes [0x10, 0x3F, 0xE0, 0, 0, 0, 0, 0, 0, 0x20] = .ok (.enc 0x3FE0000000000000, [0x20]) := by decide

theorem test_bytes_too_few : decodeBytes [0x10, 0x3F] = .error (.partialCommand 2) := by decide

theorem test_table_word :
    decodeTableWord 72 0x330000000000000000 = some .next ∧ decodeTableWord 72 0x070000000000001234 = none := by decide

/-! ## Listings (R59, R60): an ill-formed line for each check -/

theorem test_listing_refuses_missing_operand : (Line.command .LD0 none).wellFormed = false := by decide

theorem test_listing_refuses_operand_of_format_n : (Line.command .RD0 (some 1)).wellFormed = false := by decide

theorem test_listing_refuses_wide_operand :
    (Line.command .LD0 (some (2 ^ 64))).wellFormed = false ∧ (Line.seed (2 ^ 64) 0).wellFormed = false ∧
      (Line.predict 0 (2 ^ 64)).wellFormed = false := by decide

theorem test_listing_accepts :
    (Line.command .DEC (some (2 ^ 64 - 1))).wellFormed = true ∧ (Line.command .STEP none).wellFormed = true := by decide

/-- Program P1's pseudo-instructions and a comment. -/
theorem test_assemble_text :
    assembleText ["SEED 0x1, 0x2 ; seed".toList, "GEN 2".toList, "".toList, "RD0".toList] =
      some [0x010000000000000001, 0x020000000000000002, 0x330000000000000000, 0x330000000000000000,
        0x030000000000000000] := by decide +kernel

/-- Program P2 line 3, with underscores between digits; a literal of 17 digits is none. -/
theorem test_assemble_literals :
    assembleText ["LD0 0x0123_4567_89AB_CDEF".toList] = some [0x010123456789ABCDEF] ∧
      assembleText ["LD0 0x00123456789ABCDEF".toList] = none ∧ assembleText ["LD0".toList] = none := by
  decide +kernel

/-! ## Each command on one state -/

/-- Vector A11: a reload while seeded. -/
theorem test_ld0_reloads :
    held (exec (.ld0 7) (seeded 5 6)) = some (7, 6) ∧ answered (exec (.ld0 7) (seeded 5 6)) = some 0 := by decide

/-- LD0 sets V0 only (R70). -/
theorem test_ld0_sets_v0_only : flags (exec (.ld0 0) (holding 9 9 false false)) = some (true, false) := by decide

/-- Vector A8. -/
theorem test_ld1_sets_v1_only :
    flags (exec (.ld1 0xFFFFFFFFFFFFFFFF) (holding 9 9 false false)) = some (false, true) ∧
      held (exec (.ld1 0xFFFFFFFFFFFFFFFF) (seeded 5 6)) = some (5, 0xFFFFFFFFFFFFFFFF) := by decide

/-- R72's example. -/
theorem test_rd0_reads : answered (exec .rd0 (holding 0x800043 9 true false)) = some 0x00000000000800043 := by decide

/-- Vector A2. -/
theorem test_rd0_unseeded : answered (exec .rd0 (holding 5 6 false true)) = some 0x20000000000000000 := by decide

/-- Vector A10. -/
theorem test_rd1_reads :
    answered (exec .rd1 (holding 9 0xFFFFFFFFFFFFFFFF false true)) = some 0x0FFFFFFFFFFFFFFFF := by decide

/-- Vector A6. -/
theorem test_rd1_unseeded : answered (exec .rd1 (holding 0 9 true false)) = some 0x20000000000000000 := by decide

/-- Vectors A7 and A9: bit 0 is V0, bit 1 is V1. -/
theorem test_rdst_bits :
    answered (exec .rdst (holding 0 9 true false)) = some 1 ∧ answered (exec .rdst (holding 9 9 false true)) = some 2 := by
  decide

/-- Vector A13. -/
theorem test_clr_clears :
    flags (exec .clr (seeded 5 6)) = some (false, false) ∧ answered (exec .clr (seeded 5 6)) = some 0 := by decide

/-- Vectors E18 and E21: 0.1 rounds up, and a tie goes to the even neighbour above. -/
theorem test_enc_rounds :
    answered (exec (.enc 0x3FB999999999999A) (seeded 5 6)) = some 0x0000199999999999A ∧
      answered (exec (.enc 0x3FC000000000000C) (seeded 5 6)) = some 0x00002000000000002 := by decide +kernel

/-- Vectors E2, E10, E29 and E31: -0 is in the interval, 1 - 2^-53 wraps to 0, 1.0 and the least negative are out. -/
theorem test_enc_interval :
    answered (exec (.enc 0x8000000000000000) (seeded 5 6)) = some 0 ∧
      answered (exec (.enc 0x3FEFFFFFFFFFFFFF) (seeded 5 6)) = some 0 ∧
      answered (exec (.enc 0x3FF0000000000000) (seeded 5 6)) = some 0x30000000000000000 ∧
      answered (exec (.enc 0x8000000000000001) (seeded 5 6)) = some 0x30000000000000000 := by decide +kernel

/-- Vectors D8 and D14. -/
theorem test_dec_values :
    answered (exec (.dec 0x000123456789ABCD) (seeded 5 6)) = some 0x03FB23456789ABCD0 ∧
      answered (exec (.dec 0x000FFFFFFFFFFFFF) (seeded 5 6)) = some 0x03FEFFFFFFFFFFFFE := by decide +kernel

/-- Vectors D1 and D15: zero is +0, bit 52 is out of the domain. -/
theorem test_dec_domain :
    answered (exec (.dec 0) (seeded 5 6)) = some 0 ∧
      answered (exec (.dec 0x0010000000000000) (seeded 5 6)) = some 0x30000000000000000 := by decide +kernel

/-- Vectors T9 and T3. -/
theorem test_step_vectors :
    held (exec .step (seeded 0x0123456789ABCDEF 0xFEDCBA9876543210)) =
        some (0xFEDCBA9876543210, 0x4C3B73557711E6F7) ∧
      held (exec .step (seeded 0xFFFFFFFFFFFFFFFF 0xFFFFFFFFFFFFFFFF)) =
        some (0xFFFFFFFFFFFFFFFF, 0xFFFFFFC0007FFFC0) := by decide

/-- Vector T17. -/
theorem test_step_unseeded :
    answered (exec .step (holding 1 9 true false)) = some 0x20000000000000000 ∧
      held (exec .step (holding 1 9 true false)) = some (1, 9) := by decide

/-- Vectors F6 and F2. -/
theorem test_mant_top_bits :
    answered (exec .mant (holding 0x0123456789ABCDEF 9 true false)) = some 0x00000123456789ABC ∧
      answered (exec .mant (holding 0xFFF 9 true false)) = some 0 := by decide

/-- Vector F7. -/
theorem test_dbl_pattern :
    answered (exec .dbl (holding 0x4C3B73557711E6F7 9 true false)) = some 0x03FF4C3B73557711E := by decide

/-- Vectors F7 and F11. -/
theorem test_out_values :
    answered (exec .out (holding 0x4C3B73557711E6F7 9 true false)) = some 0x03FD30EDCD55DC478 ∧
      answered (exec .out (holding 0xFFFFFFFFFFFFFFFF 9 true false)) = some 0x03FEFFFFFFFFFFFFE := by decide +kernel

/-- Vector X2. -/
theorem test_next_steps_and_outputs :
    answered (exec .next (seeded 2 0x800043)) = some 0x03D60000000000000 ∧
      held (exec .next (seeded 2 0x800043)) = some (0x800043, 0x18000C1) := by decide +kernel

/-- Vector X6: the output is of the old S1, not of the old S0. -/
theorem test_next_outputs_the_new_word :
    answered (exec .next (seeded 0 0x8000000000000000)) = some 0x03FE0000000000000 := by decide +kernel

/-! ## Steps of the machine -/

/-- A command placed first runs as the first after reset; vectors A1 and I2. -/
theorem test_step_runs_the_placed_word :
    answered (step (State.reset.withFetchWord 72 0x050000000000000000)) = some 0 ∧
      answered (step (State.reset.withFetchWord 72 0x070000000000001234)) = some 0x10000000000000000 := by decide

/-- A reset between commands clears the flags and answers nothing (R130). -/
theorem test_step_takes_a_reset :
    flags (step { seeded 5 6 with input := [.reset] }) = some (false, false) ∧
      answered (step { seeded 5 6 with input := [.reset] }) = none := by decide

/-- binary64 sums outside the unit interval (93_implementation_defined U2): 1.5 + 1.0 = 2.5 and -0.25 + 1.0 = 0.75. -/
theorem test_fadd64_values :
    fadd64 0x3FF8000000000000 expOne = some 0x4004000000000000 ∧
      fadd64 0xBFD0000000000000 expOne = some 0x3FE8000000000000 := by decide +kernel

/-! ## Witnesses: for every statement with hypotheses, values that meet them; clause by clause where there are several -/

/-- The seeded state with this word presented and a RDST after it. -/
def offered (c : CommandWord) : State :=
  { seeded 2 0x800043 with input := [.command c, .command 0x050000000000000000] }

theorem witness_EncodeOfDecodeIsTheCanonicalWord : decode 0x03DEADBEEF00000000 = .ok .rd0 := by decide

theorem witness_ReservedOpcodesAnswerIllegal :
    ReservedOpcode (opField 0x000000000000000000) ∧ ReservedOpcode (opField 0x340000000000000000) ∧
      ReservedOpcode (opField 0xFF0000000000000000) ∧ ¬ ReservedOpcode (opField 0x330000000000000000) ∧
      (offered 0x070000000000001234).input =
        .command 0x070000000000001234 :: [.command 0x050000000000000000] := by
  refine ⟨?_, ?_, ?_, ?_, rfl⟩ <;> unfold ReservedOpcode <;> decide

theorem witness_ByteListingDecodesAsItsWord : ([0x10, 0, 0, 0, 0, 0, 0, 0] : List Byte).length < 9 := by decide

theorem witness_Ld0LoadsStateWord0 :
    ∃ t u, exec (.ld0 7) (seeded 5 6) = .next t ∧ exec .step t = .next u ∧ (seeded 5 6).v1 = true :=
  ⟨_, _, rfl, rfl, rfl⟩

theorem witness_Ld0LoadsStateWord0_alone :
    ∃ t u, exec (.ld0 7) (holding 5 6 true false) = .next t ∧ exec .step t = .next u ∧
      (holding 5 6 true false).v1 = false := ⟨_, _, rfl, rfl, rfl⟩

theorem witness_Ld1LoadsStateWord1 :
    ∃ t u, exec (.ld1 7) (seeded 5 6) = .next t ∧ exec .step t = .next u ∧ (seeded 5 6).v0 = true :=
  ⟨_, _, rfl, rfl, rfl⟩

theorem witness_Ld1LoadsStateWord1_alone :
    ∃ t u, exec (.ld1 7) (holding 5 6 false true) = .next t ∧ exec .step t = .next u ∧
      (holding 5 6 false true).v0 = false := ⟨_, _, rfl, rfl, rfl⟩

theorem witness_LoadsCommute :
    ∃ t1 t2 u1 u2, exec (.ld0 1) (seeded 5 6) = .next t1 ∧ exec (.ld1 2) t1 = .next t2 ∧
      exec (.ld1 2) (seeded 5 6) = .next u1 ∧ exec (.ld0 1) u1 = .next u2 :=
  ⟨_, _, _, _, rfl, rfl, rfl, rfl⟩

/-- Rd0, Mant, Dbl and Out: V0 = 1, and V0 = 0. -/
theorem witness_commands_that_need_V0 :
    (holding 5 6 true false).v0 = true ∧ (holding 5 6 false true).v0 = false := ⟨rfl, rfl⟩

theorem witness_Rd1ReadsStateWord1 :
    (holding 5 6 false true).v1 = true ∧ (holding 5 6 true false).v1 = false ∧
      ∃ t u, exec .step (seeded 5 6) = .next t ∧ exec .step { seeded 5 6 with s1 := 9 } = .next u ∧
        Instr.step ≠ .rd1 ∧ Instr.step ≠ .next := ⟨rfl, rfl, _, _, rfl, rfl, by decide, by decide⟩

/-- Step and Next: both flags set, and each flag clear. -/
theorem witness_commands_that_need_both :
    ((seeded 5 6).v0 = true ∧ (seeded 5 6).v1 = true) ∧
      ((holding 5 6 false true).v0 = false ∨ (holding 5 6 false true).v1 = false) ∧
      ((holding 5 6 true false).v0 = false ∨ (holding 5 6 true false).v1 = false) := by decide

/-- Enc, the unit-interval check, enc52 and the round trip: the least and the greatest pattern inside, and 1.0. -/
theorem witness_unit_interval :
    inUnit 0 = true ∧ inUnit 0x3FEFFFFFFFFFFFFF = true ∧ inUnit 0x8000000000000000 = true ∧
      inUnit 0x3FF0000000000000 = false ∧ inUnit 0x8000000000000001 = false := by decide

/-- Enc's small operands: +0 has the real value 0, which is at most 2^-53. -/
theorem witness_EncIsTheMantissaOfXPlusOne :
    inUnit 0x3FEFFFFFFFFFFFFF = true ∧ inUnit 0x3FF0000000000000 = false ∧
      ∃ r, value 0 = some r ∧ 0 ≤ r ∧ r ≤ 2 ^ (-53 : ℤ) :=
  ⟨by decide, by decide, 0, rfl, le_refl 0, by positivity⟩

theorem witness_DecIsThePatternMinusOne :
    (0x000FFFFFFFFFFFFF : Word).toNat < 2 ^ 52 ∧ 2 ^ 52 ≤ (0x0010000000000000 : Word).toNat ∧
      (0 : Word).toNat < 2 ^ 52 := by decide

theorem witness_Dec64IsTheExactGridValue :
    (2 ^ 51 ≤ (0xFFFFFFFFFFFFF : Mantissa).toNat ∧ (0xFFFFFFFFFFFFF : Mantissa).toNat < 2 ^ (51 + 1)) ∧
      (2 ^ 0 ≤ (1 : Mantissa).toNat ∧ (1 : Mantissa).toNat < 2 ^ (0 + 1)) := by decide

theorem witness_CodecRoundTrip :
    (∃ t, exec (.dec (zext64 0x8000000000000)) (seeded 5 6) = .next t) ∧
      inUnit 0x3FEFFFFFFFFFFFFE = true ∧ inUnit 0x3FEFFFFFFFFFFFFF = true ∧ inUnit 0x8000000000000000 = true ∧
      ∃ r, value 0 = some r := ⟨⟨_, rfl⟩, by decide, by decide, by decide, _, rfl⟩

theorem witness_TransitionBitEquations : 0 < 64 ∧ 38 ≤ 63 ∧ 47 ≤ 63 ∧ 22 ≤ 22 ∧ 63 < 64 := by decide

theorem witness_TransitionCornerCases : (0 : Word) ∈ outputs 1 0 0 := by decide

theorem witness_OutReturnsTheOutputOfS0 :
    (0xFFF : Word).toNat < 0x1000 ∧ 0xFFFFFFFFFFFFF000 ≤ (0xFFFFFFFFFFFFF000 : Word).toNat ∧
      (holding 0x1000 6 true false).v0 = true ∧ (holding 0x1000 6 true false).s0 = 0x1000 ∧
      (holding 0x8000000000000000 6 true false).s0 = 0x8000000000000000 ∧
      ∃ t u, exec .out (holding 0x1000 6 true false) = .next t ∧ exec .out t = .next u :=
  ⟨by decide, by decide, rfl, rfl, rfl, _, _, rfl, rfl⟩

theorem witness_NextStepsThenOutputs :
    ∃ t u v, exec .next (seeded 2 0x800043) = .next t ∧ exec .step (seeded 2 0x800043) = .next u ∧
      exec .out u = .next v := ⟨_, _, _, rfl, rfl, rfl⟩

theorem witness_GeneratorEmitsTheSequence :
    assemble [.seed 1 2, .gen 2] = some [0x010000000000000001, 0x020000000000000002, 0x330000000000000000,
        0x330000000000000000] ∧
      (present [0x010000000000000001, 0x020000000000000002, 0x330000000000000000, 0x330000000000000000]
          (seeded 5 6)).input =
        [0x010000000000000001, 0x020000000000000002, 0x330000000000000000, 0x330000000000000000].map .command ++ [] := by
  decide

theorem witness_PseudoInstructionsExpand :
    assembleLine (.predict 1 2) = some [0x010000000000000001, 0x020000000000000002, 0x330000000000000000] ∧
      (present [0x010000000000000001, 0x020000000000000002, 0x330000000000000000] (seeded 5 6)).input =
        [0x010000000000000001, 0x020000000000000002, 0x330000000000000000].map .command ++ [] := by decide

theorem witness_LowBitsAreInvisible :
    ∃ t u v w, exec .mant (seeded 0x1FFF 6) = .next t ∧ exec .mant { seeded 0x1FFF 6 with s0 := 0x1000 } = .next u ∧
      exec .next (seeded 5 0x1FFF) = .next v ∧ exec .next { seeded 5 0x1FFF with s1 := 0x1000 } = .next w ∧
      (0x1000 : Word).toNat / 2 ^ 12 = (0x1FFF : Word).toNat / 2 ^ 12 ∧ Instr.mant ∈ [Instr.mant, .dbl, .out] :=
  ⟨_, _, _, _, rfl, rfl, rfl, rfl, by decide, by decide⟩

theorem witness_UnseededIsRaisedExactlyThere :
    ∃ t d, exec .rd0 (holding 5 6 false true) = .next t ∧
      t.responses = (holding 5 6 false true).responses ++ [⟨.error .unseeded, d⟩] := ⟨_, _, rfl, rfl⟩

theorem witness_DomainErrorIsRaisedExactlyThere :
    ∃ t d, exec (.enc 0x3FF0000000000000) (seeded 5 6) = .next t ∧
      t.responses = (seeded 5 6).responses ++ [⟨.error .domain, d⟩] := ⟨_, _, rfl, rfl⟩

theorem witness_ErrorsWriteNoState :
    ∃ t, (offered 0x070000000000001234).input =
        .command 0x070000000000001234 :: [.command 0x050000000000000000] ∧
      step (offered 0x070000000000001234) = .next t ∧
      t.responses = (offered 0x070000000000001234).responses ++ [⟨.error .illegal, 0⟩] := ⟨_, rfl, rfl, rfl⟩

theorem witness_StepRunsTheDecodedCommand :
    (offered 0x200000000000000000).input = .command 0x200000000000000000 :: [.command 0x050000000000000000] ∧
      decode 0x200000000000000000 = .ok .step := by decide

theorem witness_EngineHoldsItsStateBetweenCommands : (seeded 5 6).input = [] := rfl

theorem witness_FrameOfEveryCommand :
    ∃ t, exec .rd0 (seeded 5 6) = .next t ∧ Instr.rd0 ∉ [Instr.clr, .step, .next] ∧
      (∀ data, Instr.rd0 ≠ .ld0 data) ∧ (∀ data, Instr.rd0 ≠ .ld1 data) ∧ Instr.rd0 ≠ .clr :=
  ⟨_, rfl, by decide, nofun, nofun, by decide⟩

/-- A STEP changes both words. -/
theorem witness_StateWordsChangeOnlyByTheListedWrites :
    ∃ t, step (offered 0x200000000000000000) = .next t ∧ t.s0 ≠ (offered 0x200000000000000000).s0 ∧
      t.s1 ≠ (offered 0x200000000000000000).s1 := ⟨_, rfl, by decide, by decide⟩

theorem witness_FlagsAreSetAndClearedByTheListedEvents :
    ∃ t, (offered 0x200000000000000000).input = .command 0x200000000000000000 :: [.command 0x050000000000000000] ∧
      step (offered 0x200000000000000000) = .next t ∧
      ¬ HostEvent.LoadsS0 (.command 0x200000000000000000) ∧ ¬ HostEvent.LoadsS1 (.command 0x200000000000000000) ∧
      ¬ HostEvent.Discards (.command 0x200000000000000000) ∧
      HostEvent.LoadsS0 (.command 0x010000000000000007) ∧ HostEvent.LoadsS1 (.command 0x020000000000000007) ∧
      HostEvent.Discards .reset ∧ HostEvent.Discards (.command 0x060000000000000000) := by
  have hd : decode 0x200000000000000000 = .ok .step := by decide
  refine ⟨_, rfl, rfl, ?_, ?_, ?_, ⟨7, _, rfl, by decide⟩, ⟨7, _, rfl, by decide⟩, .inl rfl,
    .inr ⟨_, rfl, by decide⟩⟩
  · rintro ⟨data, c, hc, h⟩
    cases hc
    cases hd.symm.trans h
  · rintro ⟨data, c, hc, h⟩
    cases hc
    cases hd.symm.trans h
  · rintro (h | ⟨c, hc, h⟩)
    · cases h
    · cases hc
      cases hd.symm.trans h

theorem witness_FlagMeansLoadedSinceTheLastDiscard :
    ∃ t, (offered 0x010000000000000007).input = [.command 0x010000000000000007] ++ [.command 0x050000000000000000] ∧
      Host.Core.run core 1 (offered 0x010000000000000007) = .next t := ⟨_, rfl, rfl⟩

theorem witness_UnspecifiedWordsAreUnobservable :
    (holding 5 6 true false).Agree { holding 5 7 true false with fresh := 4 } := by
  refine ⟨rfl, rfl, fun _ => rfl, fun h => ?_, rfl, rfl⟩
  cases h

theorem witness_ReadsAreIdempotent :
    ∃ t u, Instr.mant ∈ readingCommands 0 ∧ exec .mant (seeded 5 6) = .next t ∧ exec .mant t = .next u :=
  ⟨_, _, by decide, rfl, rfl⟩

theorem witness_OneResponsePerCommand : ∃ t, step (offered 0x200000000000000000) = .next t := ⟨_, rfl⟩

theorem witness_LaterEventsDoNotReachAResponse :
    ∃ t, (offered 0x200000000000000000).input = .command 0x200000000000000000 :: [.command 0x050000000000000000] ∧
      step (offered 0x200000000000000000) = .next t := ⟨_, rfl, rfl⟩

theorem witness_StepKeepsResponsesLegal :
    (offered 0x320000000000000000).ResponsesLegal ∧ ∃ t, step (offered 0x320000000000000000) = .next t :=
  ⟨nofun, _, rfl⟩

theorem witness_ResetEventDiscardsTheGeneratorState :
    ({ seeded 5 6 with input := [.reset] } : State).input = .reset :: [] := rfl

end Sys2Proof.Tests
end

/-! # Proofs: the state words of the engine (10_state R22, R23, R26) -/

namespace Sys2Proof.Machine

/-! ## One step, by the event taken -/

theorem step_of_idle {s : State} (h : s.input = []) : step s = .next s := by
  simp [step, serveNext, h]

theorem step_of_reset {s : State} {rest : List HostEvent} (h : s.input = .reset :: rest) :
    step s = .next (discard { s with input := rest }) := by
  simp [step, serveNext, h]

theorem step_of_command {s : State} {c : CommandWord} {rest : List HostEvent} (h : s.input = .command c :: rest) :
    step s = executeWord c { s with input := rest } := by
  simp [step, serveNext, h]

theorem executeWord_of_decode {c : CommandWord} {i : Instr} (s : State) (h : decode c = .ok i) :
    executeWord c s = exec i s := by
  simp [executeWord, h]

theorem executeWord_of_reject {c : CommandWord} {r : Reject} (s : State) (h : decode c = .error r) :
    executeWord c s = .next (raise .illegal s) := by
  simp [executeWord, h]

/-! ## Noninterference: what is kept of agreement

`State.Agree` leaves out exactly the content of words whose flag is 0. Every update of the state keeps it, and the three
readers of the state words keep it because each asks for its flag first (R26). -/

/-- Both answers are next states, and no command can tell these apart. -/
def AnswersAgree (a b : Answer) : Prop := ∃ s t, a = .next s ∧ b = .next t ∧ s.Agree t

section Agree

variable {s t : State}

theorem agree_answers (h : s.Agree t) : AnswersAgree (.next s) (.next t) := ⟨s, t, rfl, rfl, h⟩

theorem agree_respond (st : Status) (d : Word) (h : s.Agree t) : (respond st d s).Agree (respond st d t) := by
  obtain ⟨hv0, hv1, hs0, hs1, hin, hout⟩ := h
  exact ⟨hv0, hv1, hs0, hs1, hin, by simp [hout]⟩

theorem agree_raise (e : Error) (h : s.Agree t) : (raise e s).Agree (raise e t) := agree_respond (.error e) 0 h

theorem agree_loadS0 (data : Word) (h : s.Agree t) : (loadS0 data s).Agree (loadS0 data t) := by
  obtain ⟨-, hv1, -, hs1, hin, hout⟩ := h
  exact ⟨rfl, hv1, fun _ => rfl, hs1, hin, hout⟩

theorem agree_loadS1 (data : Word) (h : s.Agree t) : (loadS1 data s).Agree (loadS1 data t) := by
  obtain ⟨hv0, -, hs0, -, hin, hout⟩ := h
  exact ⟨hv0, rfl, hs0, fun _ => rfl, hin, hout⟩

theorem agree_storePair (p : Word × Word) (h : s.Agree t) : (storePair p s).Agree (storePair p t) := by
  obtain ⟨hv0, hv1, -, -, hin, hout⟩ := h
  exact ⟨hv0, hv1, fun _ => rfl, fun _ => rfl, hin, hout⟩

/-- The free values drawn may differ: after a discard no flag lets them be seen. -/
theorem agree_discard (h : s.Agree t) : (discard s).Agree (discard t) := by
  obtain ⟨-, -, -, -, hin, hout⟩ := h
  exact ⟨rfl, rfl, nofun, nofun, hin, hout⟩

theorem agree_withInput (rest : List HostEvent) (h : s.Agree t) :
    State.Agree { s with input := rest } { t with input := rest } := by
  obtain ⟨hv0, hv1, hs0, hs1, -, hout⟩ := h
  exact ⟨hv0, hv1, hs0, hs1, rfl, hout⟩

theorem statusReg_eq_of_agree (h : s.Agree t) : statusReg s = statusReg t := by
  obtain ⟨hv0, hv1, -⟩ := h
  simp [statusReg, hv0, hv1]

theorem agree_withS0 {use use' : Word → State} (h : s.Agree t) (huse : ∀ w, (use w).Agree (use' w)) :
    AnswersAgree (withS0 s use) (withS0 t use') := by
  obtain ⟨hv0, -, hs0, -⟩ := id h
  cases hv : s.v0 with
  | false =>
    rw [withS0_of_invalid use hv, withS0_of_invalid use' (hv0 ▸ hv)]
    exact agree_answers (agree_raise .unseeded h)
  | true =>
    rw [withS0_of_valid use hv, withS0_of_valid use' (hv0 ▸ hv), hs0 hv]
    exact agree_answers (huse t.s0)

theorem agree_withS1 {use use' : Word → State} (h : s.Agree t) (huse : ∀ w, (use w).Agree (use' w)) :
    AnswersAgree (withS1 s use) (withS1 t use') := by
  obtain ⟨-, hv1, -, hs1, -⟩ := id h
  cases hv : s.v1 with
  | false =>
    rw [withS1_of_invalid use hv, withS1_of_invalid use' (hv1 ▸ hv)]
    exact agree_answers (agree_raise .unseeded h)
  | true =>
    rw [withS1_of_valid use hv, withS1_of_valid use' (hv1 ▸ hv), hs1 hv]
    exact agree_answers (huse t.s1)

theorem agree_withPair {use use' : Word → Word → State} (h : s.Agree t)
    (huse : ∀ a b, (use a b).Agree (use' a b)) : AnswersAgree (withPair s use) (withPair t use') := by
  obtain ⟨hv0, hv1, hs0, hs1, -⟩ := id h
  by_cases hv : s.v0 = true ∧ s.v1 = true
  · obtain ⟨h0, h1⟩ := hv
    rw [withPair_of_valid use h0 h1, withPair_of_valid use' (hv0 ▸ h0) (hv1 ▸ h1), hs0 h0, hs1 h1]
    exact agree_answers (huse t.s0 t.s1)
  · have hinvalid : s.v0 = false ∨ s.v1 = false := by simpa [or_iff_not_imp_left] using hv
    rw [withPair_of_invalid use hinvalid, withPair_of_invalid use' (hv0 ▸ hv1 ▸ hinvalid)]
    exact agree_answers (agree_raise .unseeded h)

theorem agree_withDomain (inDomain : Bool) (result : Word) (h : s.Agree t) :
    AnswersAgree (withDomain inDomain result s) (withDomain inDomain result t) := by
  cases inDomain with
  | false => exact agree_answers (agree_raise .domain h)
  | true => exact agree_answers (agree_respond .ok result h)

/-- Every command keeps agreement: its own update keeps it, and a state word reaches it through its reader only. -/
theorem agree_exec (i : Instr) (h : s.Agree t) : AnswersAgree (exec i s) (exec i t) := by
  have reply (d : Word) : (respond .ok d s).Agree (respond .ok d t) := agree_respond .ok d h
  cases i with
  | ld0 data => exact agree_answers (agree_respond .ok 0 (agree_loadS0 data h))
  | ld1 data => exact agree_answers (agree_respond .ok 0 (agree_loadS1 data h))
  | clr => exact agree_answers (agree_respond .ok 0 (agree_discard h))
  | rdst =>
    rw [exec_rdst, exec_rdst, statusReg_eq_of_agree h]
    exact agree_answers (reply _)
  | rd0 | mant | dbl | out =>
    simp only [exec_rd0, exec_mant, exec_dbl, exec_out]
    exact agree_withS0 h fun _ => reply _
  | rd1 => exact agree_withS1 h reply
  | enc data | dec data => exact agree_withDomain _ _ h
  | step | next =>
    simp only [exec_step, exec_next]
    exact agree_withPair h fun a b => agree_respond .ok _ (agree_storePair (transition a b) h)

theorem agree_executeWord (c : CommandWord) (h : s.Agree t) : AnswersAgree (executeWord c s) (executeWord c t) := by
  cases hd : decode c with
  | ok i =>
    rw [executeWord_of_decode s hd, executeWord_of_decode t hd]
    exact agree_exec i h
  | error r =>
    rw [executeWord_of_reject s hd, executeWord_of_reject t hd]
    exact agree_answers (agree_raise .illegal h)

/-- The step lemma of noninterference: agreeing states have the same events, so they take the same one. -/
theorem agree_step (h : s.Agree t) : AnswersAgree (step s) (step t) := by
  obtain ⟨-, -, -, -, hin, -⟩ := id h
  match hs : s.input with
  | [] =>
    rw [step_of_idle hs, step_of_idle (hin ▸ hs)]
    exact agree_answers h
  | .reset :: rest =>
    rw [step_of_reset hs, step_of_reset (hin ▸ hs)]
    exact agree_answers (agree_discard (agree_withInput rest h))
  | .command c :: rest =>
    rw [step_of_command hs, step_of_command (hin ▸ hs)]
    exact agree_executeWord c (agree_withInput rest h)

end Agree

/-- Any number of steps keeps agreement. -/
theorem agree_run (k : Nat) {s t : State} (h : s.Agree t) :
    AnswersAgree (Host.Core.run core k s) (Host.Core.run core k t) := by
  induction k generalizing s t with
  | zero => exact agree_answers h
  | succ k ih =>
    obtain ⟨s', t', hs, ht, hagree⟩ := agree_step h
    rw [run_of_step k hs, run_of_step k ht]
    exact ih hagree

/-- Settles O44, by `agree_step` and induction on the number of steps. -/
theorem unspecifiedWordsAreUnobservable : Obligations.UnspecifiedWordsAreUnobservable := by
  intro k s t h
  exact agree_run k h

/-! ## Which events write which state word -/

/-- Everything a command can do to the two state words. -/
theorem exec_words_cases {i : Instr} {s t : State} (h : exec i s = .next t) :
    (t.s0 = s.s0 ∧ t.s1 = s.s1) ∨ ((∃ data, i = .ld0 data) ∧ t.s1 = s.s1) ∨
      ((∃ data, i = .ld1 data) ∧ t.s0 = s.s0) ∨ (i = .step ∨ i = .next) ∨ i = .clr := by
  rcases exec_cases h with
    ⟨_, rfl⟩ | ⟨_, rfl, -⟩ | ⟨data, hi, rfl⟩ | ⟨data, hi, rfl⟩ | ⟨hi, -⟩ | ⟨hi, -⟩
  · exact .inl ⟨rfl, rfl⟩
  · exact .inl ⟨rfl, rfl⟩
  · exact .inr (.inl ⟨⟨data, hi⟩, rfl⟩)
  · exact .inr (.inr (.inl ⟨⟨data, hi⟩, rfl⟩))
  · exact .inr (.inr (.inr (.inr hi)))
  · exact .inr (.inr (.inr (.inl hi)))

/-- Everything a step can do to the two state words, by the event taken (R22). -/
theorem step_words_cases {s t : State} (h : step s = .next t) :
    (t.s0 = s.s0 ∧ t.s1 = s.s1) ∨ ∃ e rest, s.input = e :: rest ∧
      (e.LoadsS0 ∧ t.s1 = s.s1 ∨ e.LoadsS1 ∧ t.s0 = s.s0 ∨ e.Steps ∨ e.Discards) := by
  rcases step_cases h with ⟨-, rfl⟩ | ⟨rest, hin, -⟩ | ⟨c, rest, hin, hc⟩
  · exact .inl ⟨rfl, rfl⟩
  · exact .inr ⟨.reset, rest, hin, .inr (.inr (.inr (.inl rfl)))⟩
  rcases executeWord_cases hc with ⟨i, hd, hi⟩ | ⟨_, -, rfl⟩
  · have his : (HostEvent.command c).Is i := ⟨c, rfl, hd⟩
    rcases exec_words_cases hi with
      hkept | ⟨⟨data, rfl⟩, h1⟩ | ⟨⟨data, rfl⟩, h0⟩ | (rfl | rfl) | rfl
    · exact .inl hkept
    · exact .inr ⟨_, rest, hin, .inl ⟨⟨data, his⟩, h1⟩⟩
    · exact .inr ⟨_, rest, hin, .inr (.inl ⟨⟨data, his⟩, h0⟩)⟩
    · exact .inr ⟨_, rest, hin, .inr (.inr (.inl (.inl his)))⟩
    · exact .inr ⟨_, rest, hin, .inr (.inr (.inl (.inr his)))⟩
    · exact .inr ⟨_, rest, hin, .inr (.inr (.inr (.inr his)))⟩
  · exact .inl ⟨rfl, rfl⟩

/-- Settles O41, from everything a step can do to the two words. -/
theorem stateWordsChangeOnlyByTheListedWrites : Obligations.StateWordsChangeOnlyByTheListedWrites := by
  intro s t h
  rcases step_words_cases h with ⟨h0, h1⟩ | ⟨e, rest, hin, ⟨hload, h1⟩ | ⟨hload, h0⟩ | hboth⟩
  · exact ⟨(absurd h0 ·), (absurd h1 ·)⟩
  · exact ⟨fun _ => ⟨e, rest, hin, .inl hload⟩, (absurd h1 ·)⟩
  · exact ⟨(absurd h0 ·), fun _ => ⟨e, rest, hin, .inl hload⟩⟩
  · exact ⟨fun _ => ⟨e, rest, hin, .inr hboth⟩, fun _ => ⟨e, rest, hin, .inr hboth⟩⟩

end Sys2Proof.Machine

/-! # Proofs: the command and response words, and the pseudo-instructions (30_encoding R52, R53, R57, R60) -/

namespace Sys2Proof

/-! ## The opcode map and the decoder -/

/-- A word whose OP is a command's opcode decodes to that command, whatever its DATA (R52, R56). -/
theorem decode_commandWord (m : Mnemonic) (data : Word) :
    decode (commandWord m.opcode data) = .ok (Instr.ofParts m data) := by
  have hm : Mnemonic.ofOpcode (opField (commandWord m.opcode data)) = some m := by simp
  simpa using decode_of_ofOpcode hm

/-- The opcodes of the map and the ranges of R57 part the OP values: what names no command is reserved. -/
theorem ofOpcode_eq_none_iff (op : Opcode) : Mnemonic.ofOpcode op = none ↔ Machine.ReservedOpcode op := by
  have hunnamed : Mnemonic.ofOpcode op = none ↔ ∀ m ∈ Mnemonic.all, m.opcode.toNat ≠ op.toNat := by
    simp [Mnemonic.ofOpcode, BitVec.toNat_eq]
  have hlt := op.isLt
  rw [hunnamed]
  simp only [Mnemonic.all, List.forall_mem_cons, Mnemonic.opcode, Machine.ReservedOpcode, BitVec.reduceToNat,
    List.not_mem_nil, false_implies, implies_true, and_true]
  omega

end Sys2Proof

namespace Sys2Proof.Machine

theorem decode_reserved {c : CommandWord} (h : ReservedOpcode (opField c)) :
    decode c = .error (.reservedOpcode (opField c)) :=
  decode_of_reserved ((ofOpcode_eq_none_iff _).mpr h)

theorem decode_of_not_reserved {c : CommandWord} (h : ¬ ReservedOpcode (opField c)) : ∃ i, decode c = .ok i := by
  rw [← ofOpcode_eq_none_iff] at h
  obtain ⟨m, hm⟩ := Option.ne_none_iff_exists'.mp h
  exact ⟨_, decode_of_ofOpcode hm⟩

/-- A presented word with a reserved OP is taken and answered E_ILLEGAL (R57). -/
theorem step_of_reserved {s : State} {c : CommandWord} {rest : List HostEvent} (hin : s.input = .command c :: rest)
    (h : ReservedOpcode (opField c)) : step s = .next (raise .illegal { s with input := rest }) := by
  rw [step_of_command hin, executeWord_of_reject _ (decode_reserved h)]

/-- A presented word with a command's opcode is taken and executed as that command. -/
theorem step_of_commandWord {s : State} {rest : List HostEvent} (m : Mnemonic) (data : Word)
    (hin : s.input = .command (commandWord m.opcode data) :: rest) :
    step s = exec (Instr.ofParts m data) { s with input := rest } := by
  rw [step_of_command hin, executeWord_of_decode _ (decode_commandWord m data)]

/-- Settles O3: the opcode map leaves out exactly the reserved ranges, and the engine raises E_ILLEGAL there. -/
theorem reservedOpcodesAnswerIllegal : Obligations.ReservedOpcodesAnswerIllegal := by
  refine ⟨fun c => ⟨decode_reserved, decode_of_not_reserved⟩, ?_, ?_⟩
  · decide +kernel
  · intro s c rest hin h
    exact step_of_reserved hin h

/-! ## The DATA field -/

/-- DEC's domain check `DATA[63:52] = 0` as a bound on DATA (R54, R83). -/
theorem highField_beq_zero_iff (data : Word) : (highField data == 0) = true ↔ data.toNat < 2 ^ 52 := by
  simp [BitVec.toNat_eq, highField_toNat]

/-- A command with a checked operand gives one response, OK exactly inside the domain. -/
theorem withDomain_responds (inDomain : Bool) (result : Word) (s : State) :
    ∃ t r, withDomain inDomain result s = .next t ∧ t.responses = s.responses ++ [r] ∧
      (r.status = .ok ↔ inDomain = true) := by
  cases inDomain with
  | false => exact ⟨_, _, rfl, rfl, by simp⟩
  | true => exact ⟨_, _, rfl, rfl, by simp⟩

/-- Settles O4, from the decoder on `OP ‖ DATA`, the canonical encodings and DEC's domain check. -/
theorem formatNIgnoresTheDataField : Obligations.FormatNIgnoresTheDataField := by
  refine ⟨fun data => ?_, ?_, fun data => ?_, fun s data => ?_⟩
  · exact ⟨decode_commandWord .RD0 data, decode_commandWord .RD1 data, decode_commandWord .RDST data,
      decode_commandWord .CLR data, decode_commandWord .STEP data, decode_commandWord .MANT data,
      decode_commandWord .DBL data, decode_commandWord .OUT data, decode_commandWord .NEXT data⟩
  · simp only [encode, dataField_commandWord]
    decide
  · exact ⟨decode_commandWord .LD0 data, decode_commandWord .LD1 data, decode_commandWord .ENC data,
      decode_commandWord .DEC data⟩
  · rw [exec_dec, ← highField_beq_zero_iff]
    exact withDomain_responds _ _ s

/-! ## The response word -/

theorem responseWord_toNat (r : Response) :
    (responseWord r).toNat = (statusCode r.status).toNat * 2 ^ 64 + r.rdata.toNat := by
  rw [responseWord, BitVec.toNat_append, ← Nat.shiftLeft_add_eq_or_of_lt r.rdata.isLt, Nat.shiftLeft_eq]

theorem responseWord_div (r : Response) : (responseWord r).toNat / 2 ^ 64 = (statusCode r.status).toNat := by
  have := r.rdata.isLt
  rw [responseWord_toNat]
  omega

theorem responseWord_mod (r : Response) : (responseWord r).toNat % 2 ^ 64 = r.rdata.toNat := by
  have := r.rdata.isLt
  rw [responseWord_toNat]
  omega

/-- Settles O7: the two fields of the word, and the code of each status. -/
theorem responseWordHoldsStatusAndRdata : Obligations.ResponseWordHoldsStatusAndRdata := by
  rintro ⟨status, rdata⟩
  rw [responseWord_div, responseWord_mod]
  rcases status with _ | (_ | _ | _) <;> simp [statusCode]

/-! ## The pseudo-instructions -/

theorem fitsOperand_toNat (a : Word) : fitsOperand a.toNat = true := decide_eq_true a.isLt

theorem expandLine_seed (a b : Word) : expandLine (.seed a.toNat b.toNat) = some [.ld0 a, .ld1 b] := by
  simp [expandLine, Line.wellFormed, fitsOperand_toNat]

theorem expandLine_predict (a b : Word) :
    expandLine (.predict a.toNat b.toNat) = some [.ld0 a, .ld1 b, .next] := by
  simp [expandLine, Line.wellFormed, fitsOperand_toNat]

theorem assembleLine_gen (n : Nat) : assembleLine (.gen n) = some (List.replicate n (encode .next)) := by
  simp [assembleLine, expandLine, Line.wellFormed]

theorem assembleLine_predict (a b : Word) :
    assembleLine (.predict a.toNat b.toNat) = some [encode (.ld0 a), encode (.ld1 b), encode .next] := by
  simp [assembleLine, expandLine_predict]

/-- LD0 and LD1 presented in this order seed the engine with the pair, each answered OK 0. -/
theorem run_seed {s : State} {a b : Word} {rest : List HostEvent} (k : Nat)
    (hin : s.input = .command (encode (.ld0 a)) :: .command (encode (.ld1 b)) :: rest) :
    Host.Core.run core (k + 2) s = Host.Core.run core k
      { s with s0 := a, s1 := b, v0 := true, v1 := true, input := rest,
               responses := s.responses ++ [⟨.ok, 0⟩, ⟨.ok, 0⟩] } := by
  rw [run_of_step _ (step_of_commandWord .LD0 a hin), run_of_step _ (step_of_commandWord .LD1 b rfl)]
  simp [respond, loadS0, loadS1]

/-- NEXT presented to a seeded engine steps the pair and answers the output of the new S0. -/
theorem step_of_next {s : State} {rest : List HostEvent} (hin : s.input = .command (encode .next) :: rest)
    (h0 : s.v0 = true) (h1 : s.v1 = true) :
    step s = .next (respond .ok (out64 (transition s.s0 s.s1).1)
      (storePair (transition s.s0 s.s1) { s with input := rest })) := by
  calc step s = exec .next { s with input := rest } := step_of_commandWord .NEXT 0 hin
    _ = _ := (exec_next _).trans (withPair_of_valid _ h0 h1)

/-- Settles O32: the expansions, and PREDICT run as a seeding of the engine and one NEXT. -/
theorem pseudoInstructionsExpand : Obligations.PseudoInstructionsExpand := by
  refine ⟨fun a b => ⟨expandLine_seed a b, expandLine_predict a b⟩, assembleLine_gen, ?_⟩
  intro a b s ws rest hws hin
  obtain rfl : [encode (.ld0 a), encode (.ld1 b), encode .next] = ws := by
    simpa [assembleLine_predict] using hws
  refine ⟨_, (run_seed 1 hin).trans (run_of_step 0 (step_of_next rfl rfl rfl)), rfl, rfl, ?_⟩
  simp

end Sys2Proof.Machine

/-! # Proofs: the state access commands (40_state_access R70 to R75) -/

namespace Sys2Proof.Machine

/-! ## What the shared operations answer -/

/-- The response of a command that formats S0: V0 and S0 decide it. -/
theorem withS0_responses {f : Word → Word} {s t : State} (h : withS0 s (fun w => respond .ok (f w) s) = .next t) :
    t.responses = s.responses ++ [if s.v0 then ⟨.ok, f s.s0⟩ else ⟨.error .unseeded, 0⟩] := by
  rcases withS0_cases h with ⟨hv, rfl⟩ | ⟨hv, rfl⟩ <;> simp [hv]

/-- The whole effect of a command with a checked operand is one response, which no state enters. -/
theorem withDomain_eq (inDomain : Bool) (result : Word) (s : State) :
    withDomain inDomain result s = .next { s with
      responses := s.responses ++ [if inDomain then ⟨.ok, result⟩ else ⟨.error .domain, 0⟩] } := by
  cases inDomain <;> rfl

theorem exec_step_of_valid {s : State} (h0 : s.v0 = true) (h1 : s.v1 = true) :
    exec .step s = .next (respond .ok 0 (storePair (transition s.s0 s.s1) s)) :=
  (exec_step s).trans (withPair_of_valid _ h0 h1)

theorem exec_step_of_invalid {s : State} (h : s.v0 = false ∨ s.v1 = false) :
    exec .step s = .next (raise .unseeded s) :=
  (exec_step s).trans (withPair_of_invalid _ h)

/-- STEP's response tells the flags only, not the words it steps. -/
theorem exec_step_responses {s t : State} (h : exec .step s = .next t) :
    t.responses = s.responses ++ [⟨if s.v0 && s.v1 then .ok else .error .unseeded, 0⟩] := by
  rcases withPair_cases ((exec_step s).symm.trans h) with ⟨h0, h1, rfl⟩ | ⟨h0 | h1, rfl⟩
  · simp [h0, h1]
  · simp [h0]
  · simp [h1]

/-! ## The status register -/

/-- STATUS_REG as a number: V0 has weight 1, V1 weight 2 (R74). -/
theorem statusReg_eq_ofNat (s : State) : statusReg s = BitVec.ofNat 64 (s.v0.toNat + 2 * s.v1.toNat) := by
  rw [statusReg]
  cases s.v0 <;> cases s.v1 <;> rfl

/-- STATUS_REG bit by bit. -/
theorem statusReg_getLsbD (s : State) (k : Nat) :
    (statusReg s).getLsbD k = if k = 0 then s.v0 else if k = 1 then s.v1 else false := by
  rw [statusReg, BitVec.getLsbD_setWidth, BitVec.getLsbD_append, BitVec.getLsbD_ofBool, BitVec.getLsbD_ofBool]
  match k with
  | 0 => simp
  | 1 => simp
  | k + 2 => simp

theorem exec_rdst_eq (s : State) : exec .rdst s =
    .next { s with responses := s.responses ++ [⟨.ok, BitVec.ofNat 64 (s.v0.toNat + 2 * s.v1.toNat)⟩] } := by
  rw [exec_rdst, statusReg_eq_ofNat, respond]

/-- Settles O13: the register as a number, and its bits. -/
theorem rdstReadsTheFlags : Obligations.RdstReadsTheFlags := by
  refine ⟨decode_commandWord .RDST, exec_rdst_eq, fun s => ⟨?_, ?_, fun k hk => ?_⟩⟩
  · exact statusReg_getLsbD s 0
  · exact statusReg_getLsbD s 1
  · rw [statusReg_getLsbD, if_neg (by omega), if_neg (by omega)]

/-! ## The loads -/

/-- Settles O8: after the load V0 is set, so V1 alone decides whether STEP runs. -/
theorem ld0LoadsStateWord0 : Obligations.Ld0LoadsStateWord0 := by
  refine ⟨decode_commandWord .LD0, fun s data => exec_ld0 data s, ?_⟩
  rintro s t u data hload hstep
  obtain rfl : respond .ok 0 (loadS0 data s) = t := by simpa [exec_ld0] using hload
  refine ⟨fun h1 => ?_, fun h1 => ?_⟩
  · cases (exec_step_of_valid (by simp) (by simpa using h1)).symm.trans hstep
    rfl
  · cases (exec_step_of_invalid (.inr (by simpa using h1))).symm.trans hstep
    exact ⟨rfl, rfl⟩

/-- Settles O9: after the load V1 is set, so V0 alone decides whether STEP runs. -/
theorem ld1LoadsStateWord1 : Obligations.Ld1LoadsStateWord1 := by
  refine ⟨decode_commandWord .LD1, fun s data => exec_ld1 data s, ?_⟩
  rintro s t u data hload hstep
  obtain rfl : respond .ok 0 (loadS1 data s) = t := by simpa [exec_ld1] using hload
  refine ⟨fun h0 => ?_, fun h0 => ?_⟩
  · cases (exec_step_of_valid (by simpa using h0) (by simp)).symm.trans hstep
    rfl
  · cases (exec_step_of_invalid (.inl (by simpa using h0))).symm.trans hstep
    exact ⟨rfl, rfl⟩

/-! ## The reads -/

/-- Settles O11, by the two cases of the reader of S0. -/
theorem rd0ReadsStateWord0 : Obligations.Rd0ReadsStateWord0 :=
  ⟨decode_commandWord .RD0, fun s h => (exec_rd0 s).trans (withS0_of_valid _ h),
    fun s h => (exec_rd0 s).trans (withS0_of_invalid _ h)⟩

/-- No response but RD1's and NEXT's depends on S1: the other readers read S0 only, and STEP answers 0. -/
theorem responses_eq_of_s1 {i : Instr} {s t u : State} {w : Word} (hrd1 : i ≠ .rd1) (hnext : i ≠ .next)
    (ht : exec i s = .next t) (hu : exec i { s with s1 := w } = .next u) : t.responses = u.responses := by
  cases i with
  | rd1 => exact absurd rfl hrd1
  | next => exact absurd rfl hnext
  | ld0 | ld1 | rdst | clr =>
    cases ht
    cases hu
    rfl
  | rd0 | mant | dbl | out =>
    simp only [exec_rd0, exec_mant, exec_dbl, exec_out] at ht hu
    exact (withS0_responses ht).trans (withS0_responses hu).symm
  | enc | dec =>
    simp only [exec_enc, exec_dec, withDomain_eq] at ht hu
    cases ht
    cases hu
    rfl
  | step => exact (exec_step_responses ht).trans (exec_step_responses hu).symm

/-- Settles O12, by the two cases of the reader of S1 and the responses that do not depend on it. -/
theorem rd1ReadsStateWord1 : Obligations.Rd1ReadsStateWord1 :=
  ⟨decode_commandWord .RD1, fun s h => (exec_rd1 s).trans (withS1_of_valid _ h),
    fun s h => (exec_rd1 s).trans (withS1_of_invalid _ h),
    fun _ _ _ _ _ hrd1 hnext ht hu => responses_eq_of_s1 hrd1 hnext ht hu⟩

/-! ## CLR -/

/-- With both flags clear every command that reads a state word raises E_UNSEEDED (R112). -/
theorem exec_of_unseeded {s : State} (h0 : s.v0 = false) (h1 : s.v1 = false) :
    ∀ i ∈ [Instr.rd0, .rd1, .step, .mant, .dbl, .out, .next], exec i s = .next (raise .unseeded s) := by
  simp [exec_rd0, exec_rd1, exec_step, exec_mant, exec_dbl, exec_out, exec_next, withS0_of_invalid _ h0,
    withS1_of_invalid _ h1, withPair_of_invalid _ (.inl h0)]

/-- A codec command appends the same response in every state, and changes nothing else. -/
theorem exec_codec_eq {i : Instr} {x : Word} (hi : i = .enc x ∨ i = .dec x) :
    ∃ r, ∀ s : State, exec i s = .next { s with responses := s.responses ++ [r] } := by
  rcases hi with rfl | rfl
  · exact ⟨_, withDomain_eq _ _⟩
  · exact ⟨_, withDomain_eq _ _⟩

/-- Settles O14: what a state with both flags clear answers, at the state CLR leaves. -/
theorem clrDiscardsTheGeneratorState : Obligations.ClrDiscardsTheGeneratorState := by
  refine ⟨decode_commandWord .CLR, fun s => ⟨_, exec_clr s, rfl, rfl, rfl, rfl, ?_, fun x i hi => ?_, ?_, ?_⟩⟩
  · exact exec_of_unseeded rfl rfl
  · obtain ⟨r, hr⟩ := exec_codec_eq hi
    exact ⟨r, _, _, hr s, hr _, rfl, rfl⟩
  · exact exec_rdst_eq _
  · exact ⟨rfl, rfl, nofun, nofun, rfl, rfl⟩

end Sys2Proof.Machine

/-! # Proofs: the codec commands and their binary64 arithmetic (41_codec R80 to R86) -/

namespace Sys2Proof.Machine

/-! ## Rounding a quotient by a power of two -/

/-- A whole number needs no rounding. -/
theorem roundHalfEven_mul_two_pow (a s : Nat) : roundHalfEven (a * 2 ^ s) s = a := by
  have hh : 0 < 2 ^ (s - 1) := Nat.two_pow_pos _
  simp only [roundHalfEven, Nat.mul_div_cancel a (Nat.two_pow_pos s), Nat.mul_mod_left]
  exact if_neg (by omega)

/-- A common power of two cancels. -/
theorem roundHalfEven_mul_two_pow_add (a j : Nat) {s : Nat} (hs : 1 ≤ s) :
    roundHalfEven (a * 2 ^ j) (s + j) = roundHalfEven a s := by
  have hj : 0 < 2 ^ j := Nat.two_pow_pos j
  have hhalf : s + j - 1 = (s - 1) + j := by omega
  simp only [roundHalfEven, hhalf, Nat.pow_add, Nat.mul_div_mul_right _ _ hj, Nat.mul_mod_mul_right, gt_iff_lt,
    Nat.mul_lt_mul_right hj, Nat.mul_left_inj hj.ne']

/-- An even whole number passes through the rounding, since it keeps the parity that decides a tie. -/
theorem roundHalfEven_add_even (a s : Nat) {k : Nat} (hk : k % 2 = 0) :
    roundHalfEven (a + k * 2 ^ s) s = roundHalfEven a s + k := by
  simp only [roundHalfEven, Nat.add_mul_div_right _ _ (Nat.two_pow_pos s), Nat.add_mul_mod_self_right]
  split <;> split <;> omega

/-- The rounded number is at most half a unit away. -/
theorem roundHalfEven_near (a : Nat) {s : Nat} (hs : 1 ≤ s) :
    2 * (roundHalfEven a s * 2 ^ s) ≤ 2 * a + 2 ^ s ∧ 2 * a ≤ 2 * (roundHalfEven a s * 2 ^ s) + 2 ^ s := by
  obtain ⟨hup, hdown, -⟩ := roundHalfEven_spec a s hs
  have hhalf : 2 * 2 ^ (s - 1) = 2 ^ s := mul_pow_sub_one (by omega) 2
  omega

/-- A number up to `k` units is not rounded past `k`. -/
theorem roundHalfEven_le {a k s : Nat} (hs : 1 ≤ s) (h : a ≤ k * 2 ^ s) : roundHalfEven a s ≤ k := by
  obtain ⟨hup, -⟩ := roundHalfEven_near a hs
  have hpos := Nat.two_pow_pos s
  have hlt : roundHalfEven a s * 2 ^ s < (k + 1) * 2 ^ s := by rw [Nat.add_mul]; omega
  exact Nat.lt_succ_iff.mp (Nat.lt_of_mul_lt_mul_right hlt)

/-- Up to half a unit rounds to 0, the tie included. -/
theorem roundHalfEven_eq_zero {a s : Nat} (hs : 1 ≤ s) (h : 2 * a ≤ 2 ^ s) : roundHalfEven a s = 0 := by
  have hhalf : 2 * 2 ^ (s - 1) = 2 ^ s := mul_pow_sub_one (by omega) 2
  have hlt : a < 2 ^ s := by have := Nat.two_pow_pos s; omega
  simp only [roundHalfEven, Nat.div_eq_of_lt hlt, Nat.mod_eq_of_lt hlt]
  exact if_neg (by omega)

/-! ## The magnitude of a pattern -/

/-- The absolute value of a finite pattern as a count of the smallest subnormal: `scaled` without its sign. -/
def magnitude (x : Word) : Nat := encSignificand x * 2 ^ ((expField x).toNat - 1)

theorem scaled_eq (x : Word) : scaled x = if signField x then -(magnitude x : Int) else magnitude x := rfl

theorem scaled_eq_signFactor (x : Word) : (scaled x : ℚ) = signFactor x * magnitude x := by
  rw [scaled_eq, signFactor]
  split <;> simp

theorem expField_eq_zero_iff (x : Word) : expField x = 0 ↔ (expField x).toNat = 0 := by
  simp [BitVec.toNat_eq]

theorem isFinite_iff (x : Word) : isFinite x = true ↔ (expField x).toNat ≠ 2047 := by
  simp [isFinite, BitVec.toNat_eq]

theorem magnitude_of_exp_zero {x : Word} (h : (expField x).toNat = 0) : magnitude x = (fracField x).toNat := by
  simp [magnitude, encSignificand, (expField_eq_zero_iff x).mpr h]

theorem magnitude_of_exp_ne_zero {x : Word} (h : (expField x).toNat ≠ 0) :
    magnitude x = (2 ^ 52 + (fracField x).toNat) * 2 ^ ((expField x).toNat - 1) := by
  rw [magnitude, encSignificand, if_neg (mt (expField_eq_zero_iff x).mp h)]

theorem magnitude_of_fields {x : Word} {e f : Nat} (he : (expField x).toNat = e + 1) (hf : (fracField x).toNat = f) :
    magnitude x = (2 ^ 52 + f) * 2 ^ e := by
  rw [magnitude_of_exp_ne_zero (by omega), he, hf, Nat.add_sub_cancel]

/-- The three fields are the whole pattern. -/
theorem toNat_mod_eq_fields (x : Word) :
    x.toNat % 2 ^ 63 = (expField x).toNat * 2 ^ 52 + (fracField x).toNat := by
  rw [expField_toNat, fracField_toNat]
  omega

/-- The exponent field bounds the magnitude from both sides. -/
theorem magnitude_lt_iff (x : Word) (n : Nat) : magnitude x < 2 ^ 52 * 2 ^ n ↔ (expField x).toNat ≤ n := by
  have hf := (fracField x).isLt
  have hn := Nat.two_pow_pos n
  by_cases he : (expField x).toNat = 0
  · rw [magnitude_of_exp_zero he, he]
    exact iff_of_true (hf.trans_le (Nat.le_mul_of_pos_right _ hn)) (Nat.zero_le n)
  · obtain ⟨e, he'⟩ := Nat.exists_eq_succ_of_ne_zero he
    have hpos := Nat.two_pow_pos e
    rw [magnitude_of_exp_ne_zero he, he', Nat.succ_sub_one]
    constructor
    · intro h
      by_contra hlt
      have hle : 2 ^ n ≤ 2 ^ e := Nat.pow_le_pow_right (by omega) (by omega)
      exact absurd h (not_lt.mpr (Nat.mul_le_mul (by omega) hle))
    · intro hle
      calc (2 ^ 52 + (fracField x).toNat) * 2 ^ e < 2 ^ 53 * 2 ^ e := Nat.mul_lt_mul_of_pos_right (by omega) hpos
        _ = 2 ^ 52 * 2 ^ e.succ := by rw [Nat.pow_succ]; omega
        _ ≤ 2 ^ 52 * 2 ^ n := Nat.mul_le_mul_left _ (Nat.pow_le_pow_right (by omega) hle)

theorem magnitude_eq_zero_iff (x : Word) : magnitude x = 0 ↔ x.toNat % 2 ^ 63 = 0 := by
  rw [toNat_mod_eq_fields]
  by_cases he : (expField x).toNat = 0
  · rw [magnitude_of_exp_zero he]
    omega
  · rw [magnitude_of_exp_ne_zero he]
    have := Nat.two_pow_pos ((expField x).toNat - 1)
    exact iff_of_false (Nat.mul_pos (by omega) this).ne' (by omega)

/-- A number of 53 bits above bit `s` is rounded at bit `s`. -/
theorem roundMagnitude_of_bounds {n s : Nat} (hs : 1 ≤ s) (hlo : 2 ^ 52 * 2 ^ s ≤ n) (hhi : n < 2 ^ 53 * 2 ^ s) :
    roundMagnitude n = min (s * 2 ^ 52 + roundHalfEven n s) 0x7FF0000000000000 := by
  have h2 : 2 ^ 1 ≤ 2 ^ s := Nat.pow_le_pow_right (by omega) hs
  have hlog : n.log2 = 52 + s := (Nat.log2_eq_iff (by omega)).mpr
    ⟨(Nat.pow_add ..).trans_le hlo, hhi.trans_eq (by rw [← Nat.pow_add]; congr 1; omega)⟩
  rw [roundMagnitude, if_neg (by omega)]
  simp only [hlog, Nat.add_sub_cancel_left]

/-- Rounding the magnitude of a finite pattern gives its bits below the sign back: every pattern is its own nearest. -/
theorem roundMagnitude_magnitude {x : Word} (h : isFinite x = true) :
    roundMagnitude (magnitude x) = x.toNat % 2 ^ 63 := by
  have hf := (fracField x).isLt
  have he := (expField x).isLt
  rw [isFinite_iff] at h
  rw [toNat_mod_eq_fields]
  obtain h0 | h1 | h2 : (expField x).toNat = 0 ∨ (expField x).toNat = 1 ∨ 2 ≤ (expField x).toNat := by omega
  · rw [magnitude_of_exp_zero h0, h0, roundMagnitude, if_pos (by omega)]
    omega
  · rw [magnitude_of_exp_ne_zero (by omega), h1, roundMagnitude, if_pos (by omega)]
    omega
  · rw [magnitude_of_exp_ne_zero (by omega), roundMagnitude_of_bounds (s := (expField x).toNat - 1) (by omega)
      (Nat.mul_le_mul_right _ (by omega)) (Nat.mul_lt_mul_of_pos_right (by omega) (Nat.two_pow_pos _)),
      roundHalfEven_mul_two_pow]
    omega

/-- A finite pattern without a sign is determined by its magnitude. -/
theorem eq_of_magnitude_eq {x y : Word} (hx : isFinite x = true) (hy : isFinite y = true) (hx63 : x.toNat < 2 ^ 63)
    (hy63 : y.toNat < 2 ^ 63) (h : magnitude x = magnitude y) : x = y := by
  apply BitVec.eq_of_toNat_eq
  calc x.toNat = x.toNat % 2 ^ 63 := (Nat.mod_eq_of_lt hx63).symm
    _ = y.toNat % 2 ^ 63 := by rw [← roundMagnitude_magnitude hx, h, roundMagnitude_magnitude hy]
    _ = y.toNat := Nat.mod_eq_of_lt hy63

/-! ## The real value of a pattern -/

/-- The rational number that `n` of the smallest subnormals make. -/
def ofScaled (n : Int) : ℚ := n * 2 ^ (-1074 : ℤ)

theorem ofScaled_strictMono : StrictMono ofScaled := fun _ _ h =>
  mul_lt_mul_of_pos_right (Int.cast_lt.mpr h) (by positivity)

theorem ofScaled_zero : ofScaled 0 = 0 := by simp [ofScaled]

theorem ofScaled_natCast_two_pow (k : Nat) : ofScaled ((2 ^ k : Nat) : Int) = 2 ^ ((k : ℤ) - 1074) := by
  rw [ofScaled, Int.cast_natCast, Nat.cast_pow, ← zpow_natCast, Nat.cast_ofNat, ← zpow_add₀ two_ne_zero,
    ← sub_eq_add_neg]

theorem ofScaled_add (a b : Int) : ofScaled (a + b) = ofScaled a + ofScaled b := by
  rw [ofScaled, Int.cast_add, add_mul]
  rfl

theorem ofScaled_mul (a b : Int) : ofScaled (a * b) = a * ofScaled b := by
  rw [ofScaled, ofScaled, Int.cast_mul, mul_assoc]

/-- A normal pattern by R9's formula. -/
theorem value_of_normal {x : Word} (he : expField x ≠ 0) (hfin : expField x ≠ 2047) :
    value x = some (signFactor x * (1 + (fracField x).toNat * 2 ^ (-52 : ℤ)) *
      2 ^ (((expField x).toNat : ℤ) - 1023)) := by
  simp only [value, classify, if_neg he, if_neg hfin]

/-- A pattern with exponent field 0 by R10's formula for subnormals, which gives 0 for the zeros too. -/
theorem value_of_exp_zero {x : Word} (he : expField x = 0) :
    value x = some (signFactor x * (fracField x).toNat * 2 ^ (-1074 : ℤ)) := by
  by_cases hf : fracField x = 0
  · simp only [value, classify, if_pos he, if_pos hf]
    simp only [hf, BitVec.ofNat_eq_ofNat, BitVec.toNat_zero, Nat.cast_zero, mul_zero, zero_mul]
  · simp only [value, classify, if_pos he, if_neg hf]

/-- A finite pattern stands for its scaled count, in every class. -/
theorem value_of_isFinite {x : Word} (h : isFinite x = true) : value x = some (ofScaled (scaled x)) := by
  have hne : expField x ≠ 2047 := fun hx => (isFinite_iff x).mp h (by rw [hx]; rfl)
  rw [ofScaled, scaled_eq_signFactor]
  by_cases he : (expField x).toNat = 0
  · rw [value_of_exp_zero ((expField_eq_zero_iff x).mpr he), magnitude_of_exp_zero he]
  · have hexp : ((expField x).toNat : ℤ) - 1023 = (((expField x).toNat - 1 : Nat) : ℤ) + 52 + (-1074) := by omega
    rw [value_of_normal (mt (expField_eq_zero_iff x).mp he) hne, magnitude_of_exp_ne_zero he, hexp,
      zpow_add₀ two_ne_zero, zpow_add₀ two_ne_zero, zpow_natCast, zpow_neg, zpow_ofNat]
    generalize (2 : ℚ) ^ (-1074 : ℤ) = tiny
    push_cast
    congr 1
    field_simp
    ring

theorem value_of_not_isFinite {x : Word} (h : ¬ isFinite x = true) : value x = none := by
  have he : expField x = 2047 := by simpa [isFinite] using h
  have hne : expField x ≠ 0 := by rw [he]; decide
  by_cases hf : fracField x = 0
  · simp only [value, classify, if_neg hne, if_pos he, if_pos hf]
  · simp only [value, classify, if_neg hne, if_pos he, if_neg hf]

/-- The patterns with a real value are the finite ones. -/
theorem value_eq_some_iff {x : Word} {r : ℚ} : value x = some r ↔ isFinite x = true ∧ ofScaled (scaled x) = r := by
  by_cases h : isFinite x = true
  · simp [value_of_isFinite h, h]
  · simp [value_of_not_isFinite h, h]

/-! ## The grid in counts of the smallest subnormal -/

/-- Half a grid step, `2^-53`, as a count of the smallest subnormal. -/
def halfStep : Nat := 2 ^ 1021

/-- A grid step, `2^-52`, as a count of the smallest subnormal. -/
def gridStep : Nat := 2 ^ 1022

theorem gridStep_eq : gridStep = 2 * halfStep := by
  rw [gridStep, halfStep, ← Nat.pow_succ']

theorem halfStep_pos : 0 < halfStep := by
  rw [halfStep]
  positivity

theorem ofScaled_halfStep : ofScaled halfStep = 2 ^ (-53 : ℤ) := by
  rw [halfStep, ofScaled_natCast_two_pow]
  rfl

theorem ofScaled_grid (k : Nat) : ofScaled (k * gridStep) = gridValue k := by
  rw [ofScaled_mul, gridValue, gridStep, ofScaled_natCast_two_pow, Int.cast_natCast]
  rfl

theorem gridValue_one : gridValue (2 ^ 52) = 1 := by
  norm_num [gridValue]

/-! ## The unit interval -/

/-- InUnit by fields, as R81 writes it. -/
theorem inUnit_iff_fields (x : Word) : inUnit x = true ↔
    x.toNat % 2 ^ 63 = 0 ∨ (x.toNat < 2 ^ 63 ∧ x.toNat / 2 ^ 52 % 2 ^ 11 ≤ 1022) := by
  have hzero : (x.extractLsb' 0 63 == 0) = true ↔ x.toNat % 2 ^ 63 = 0 := by simp [BitVec.toNat_eq]
  rw [inUnit, Bool.or_eq_true, hzero, Bool.and_eq_true, signField_eq, expField_toNat]
  simp

/-- The patterns of the unit interval in the order of their bits: everything below 1.0, and -0. -/
theorem inUnit_iff_toNat (x : Word) : inUnit x = true ↔ x.toNat < 1023 * 2 ^ 52 ∨ x.toNat = 2 ^ 63 := by
  have := x.isLt
  rw [inUnit_iff_fields]
  omega

theorem expField_le_of_inUnit {x : Word} (h : inUnit x = true) : (expField x).toNat ≤ 1022 := by
  rw [inUnit_iff_toNat] at h
  rw [expField_toNat]
  omega

theorem isFinite_of_inUnit {x : Word} (h : inUnit x = true) : isFinite x = true := by
  have := expField_le_of_inUnit h
  exact (isFinite_iff x).mpr (by omega)

theorem magnitude_lt_gridStep_iff (x : Word) : magnitude x < 2 ^ 52 * gridStep ↔ (expField x).toNat ≤ 1022 := by
  rw [gridStep, magnitude_lt_iff]

theorem magnitude_lt_of_inUnit {x : Word} (h : inUnit x = true) : magnitude x < 2 ^ 52 * gridStep :=
  (magnitude_lt_gridStep_iff x).mpr (expField_le_of_inUnit h)

/-- The sign of an operand in the unit interval does not matter: it stands before a zero only. -/
theorem scaled_of_inUnit {x : Word} (h : inUnit x = true) : scaled x = magnitude x := by
  rw [scaled_eq, signField_eq]
  rcases (inUnit_iff_toNat x).mp h with hlt | hneg
  · rw [if_neg (by simp; omega)]
  · have hzero : magnitude x = 0 := (magnitude_eq_zero_iff x).mpr (by omega)
    simp [hzero]

/-- InUnit by value: a finite pattern from 0 up to but not including 1.0. -/
theorem inUnit_iff_scaled (x : Word) :
    inUnit x = true ↔ isFinite x = true ∧ 0 ≤ scaled x ∧ scaled x < (2 ^ 52 : Nat) * gridStep := by
  constructor
  · intro h
    rw [scaled_of_inUnit h]
    exact ⟨isFinite_of_inUnit h, Int.natCast_nonneg _, by exact_mod_cast magnitude_lt_of_inUnit h⟩
  · rintro ⟨-, hnonneg, hlt⟩
    rw [inUnit_iff_fields, ← expField_toNat]
    rw [scaled_eq, signField_eq] at hnonneg hlt
    by_cases hs : 2 ^ 63 ≤ x.toNat
    · simp only [hs, decide_true, if_true] at hnonneg
      exact .inl ((magnitude_eq_zero_iff x).mp (by omega))
    · simp only [hs, decide_false, Bool.false_eq_true, if_false] at hlt
      have hmag : magnitude x < 2 ^ 52 * gridStep := by exact_mod_cast hlt
      exact .inr ⟨by omega, (magnitude_lt_gridStep_iff x).mp hmag⟩

theorem inUnit_iff_value (x : Word) : inUnit x = true ↔ ∃ r, value x = some r ∧ 0 ≤ r ∧ r < 1 := by
  rw [inUnit_iff_scaled, ← ofScaled_strictMono.le_iff_le, ← ofScaled_strictMono.lt_iff_lt, ofScaled_zero,
    ofScaled_grid, gridValue_one]
  simp [value_eq_some_iff, and_assoc]

theorem value_of_inUnit {x : Word} (h : inUnit x = true) : value x = some (ofScaled (magnitude x)) := by
  rw [value_of_isFinite (isFinite_of_inUnit h), scaled_of_inUnit h]

/-- In the unit interval ENC answers the mantissa of the integer form. -/
theorem exec_enc_inside {x : Word} (s : State) (h : inUnit x = true) :
    exec (.enc x) s = .next (respond .ok (zext64 (enc52 x)) s) := by
  rw [exec_enc, h]
  rfl

/-- Outside the unit interval ENC raises E_DOMAIN and changes nothing else (R113). -/
theorem exec_enc_outside {x : Word} (s : State) (h : inUnit x = false) :
    exec (.enc x) s = .next (raise .domain s) := by
  rw [exec_enc, h]
  rfl

/-- Settles O15: the check by fields, by value, and what ENC answers outside. -/
theorem unitIntervalCheckIsHalfOpen : Obligations.UnitIntervalCheckIsHalfOpen :=
  ⟨inUnit_iff_fields, inUnit_iff_value, fun s _ h => exec_enc_outside s h⟩

/-! ## The rounding of ENC -/

/-- The integer `q` of R82: the operand in grid steps, rounded. -/
def encRounded (x : Word) : Nat := roundHalfEven (magnitude x) 1022

/-- `sig / 2^s` of R82 is the magnitude in grid steps. -/
theorem enc52_eq {x : Word} (h : inUnit x = true) : enc52 x = BitVec.ofNat 52 (encRounded x) := by
  have hle := expField_le_of_inUnit h
  rw [enc52, encRounded, magnitude, encScale]
  by_cases he : (expField x).toNat = 0
  · rw [if_pos ((expField_eq_zero_iff x).mpr he), he, Nat.zero_sub, Nat.pow_zero, Nat.mul_one]
  · rw [if_neg (mt (expField_eq_zero_iff x).mp he),
      ← roundHalfEven_mul_two_pow_add _ ((expField x).toNat - 1) (by omega),
      show 1023 - (expField x).toNat + ((expField x).toNat - 1) = 1022 by omega]

theorem encRounded_le {x : Word} (h : inUnit x = true) : encRounded x ≤ 2 ^ 52 := by
  have hlt := magnitude_lt_of_inUnit h
  rw [gridStep] at hlt
  exact roundHalfEven_le (by omega) hlt.le

/-- The rounded operand is at most half a grid step away. -/
theorem encRounded_near (x : Word) : encRounded x * gridStep ≤ magnitude x + halfStep ∧
    magnitude x ≤ encRounded x * gridStep + halfStep := by
  have hnear := roundHalfEven_near (magnitude x) (s := 1022) (by omega)
  rw [← gridStep, ← encRounded, gridStep_eq] at hnear
  rw [gridStep_eq]
  omega

/-- A whole number of grid steps needs no rounding. -/
theorem encRounded_of_grid {x : Word} {k : Nat} (h : magnitude x = k * gridStep) : encRounded x = k := by
  rw [encRounded, h, gridStep, roundHalfEven_mul_two_pow]

/-- Up to half a grid step rounds to mantissa 0. -/
theorem enc52_of_value_le {x : Word} {r : ℚ} (hr : value x = some r) (h0 : 0 ≤ r) (hle : r ≤ 2 ^ (-53 : ℤ)) :
    enc52 x = 0 := by
  have hin : inUnit x = true :=
    (inUnit_iff_value x).mpr ⟨r, hr, h0, hle.trans_lt (by norm_num)⟩
  obtain rfl : ofScaled (magnitude x) = r := by simpa [value_of_inUnit hin] using hr
  have hmag : magnitude x ≤ halfStep := by
    rwa [← ofScaled_halfStep, ofScaled_strictMono.le_iff_le, Nat.cast_le] at hle
  have hround : 2 * magnitude x ≤ gridStep := by rw [gridStep_eq]; omega
  rw [gridStep] at hround
  rw [enc52_eq hin, encRounded, roundHalfEven_eq_zero (by omega) hround]
  rfl

/-! ## ENC as a binary64 sum -/

theorem isFinite_expOne : isFinite expOne = true := by decide

theorem magnitude_expOne : magnitude expOne = 2 ^ 52 * gridStep := by
  rw [magnitude_of_fields (e := 1022) (f := 0) rfl rfl, gridStep, Nat.add_zero]

theorem scaled_expOne : scaled expOne = magnitude expOne := by
  rw [scaled_eq, if_neg (by decide)]

/-- A sum that comes to `n` counts, not of two negative operands, is `n` rounded, without a sign. -/
theorem fadd64_of_nonneg {x y : Word} {n : Nat} (hx : isFinite x = true) (hy : isFinite y = true)
    (hn : scaled x + scaled y = n) (hsign : (signField x && signField y) = false) :
    fadd64 x y = some (BitVec.ofNat 64 (roundMagnitude n)) := by
  have hneg : ¬ ((n : Int) < 0) := by omega
  simp [fadd64, hx, hy, hn, hsign, hneg, or64, shl64]

/-- The sum x + 1.0 is the pattern of 1.0 plus the rounded operand, carrying into the exponent where it is 2.0 (R80). -/
theorem fadd64_expOne {x : Word} (h : inUnit x = true) :
    fadd64 x expOne = some (BitVec.ofNat 64 (1023 * 2 ^ 52 + encRounded x)) := by
  have hlt := magnitude_lt_of_inUnit h
  have hq := encRounded_le h
  have hsum : scaled x + scaled expOne = ((magnitude x + 2 ^ 52 * gridStep : Nat) : Int) := by
    rw [scaled_of_inUnit h, scaled_expOne, magnitude_expOne, ← Nat.cast_add]
  have hsign : (signField x && signField expOne) = false := by simp [show signField expOne = false by decide]
  have hhi : magnitude x + 2 ^ 52 * gridStep < 2 ^ 53 * gridStep := by omega
  rw [fadd64_of_nonneg (isFinite_of_inUnit h) isFinite_expOne hsum hsign]
  rw [gridStep] at hhi ⊢
  rw [roundMagnitude_of_bounds (by omega) (Nat.le_add_left _ _) hhi, roundHalfEven_add_even _ _ (by omega),
    ← encRounded, Nat.min_eq_left (by omega), show 1022 * 2 ^ 52 + (encRounded x + 2 ^ 52) = 1023 * 2 ^ 52 + encRounded x by omega]

theorem fracField_ofNat (q : Nat) : fracField (BitVec.ofNat 64 (1023 * 2 ^ 52 + q)) = BitVec.ofNat 52 q := by
  apply BitVec.eq_of_toNat_eq
  rw [fracField_toNat, BitVec.toNat_ofNat, BitVec.toNat_ofNat]
  omega

/-- Settles O16: the sum is `1023 * 2^52 + q`, whose low 52 bits are those of R82's integer form. -/
theorem encIsTheMantissaOfXPlusOne : Obligations.EncIsTheMantissaOfXPlusOne := by
  refine ⟨decode_commandWord .ENC, fun s x h => ?_, fun s x h => exec_enc_outside s h,
    fun x r => enc52_of_value_le, ?_⟩
  · have hfrac := (fracField_ofNat (encRounded x)).trans (enc52_eq h).symm
    refine ⟨_, fadd64_expOne h, hfrac, ?_⟩
    rw [hfrac]
    exact exec_enc_inside s h
  · decide +kernel

/-! ## The pattern of a grid value -/

/-- The fraction that `dec64` forms fits its field and is not all ones. -/
theorem dec64_fraction_le {n k : Nat} (hlo : 2 ^ k ≤ n) (hhi : n < 2 ^ (k + 1)) (hk : k ≤ 51) :
    (n - 2 ^ k) * 2 ^ (52 - k) ≤ 2 ^ 52 - 2 := by
  have hle : (n - 2 ^ k) * 2 ^ (51 - k) ≤ (2 ^ k - 1) * 2 ^ (51 - k) :=
    Nat.mul_le_mul_right _ (by rw [Nat.pow_succ] at hhi; omega)
  have hfull : (2 ^ k - 1) * 2 ^ (51 - k) = 2 ^ 51 - 2 ^ (51 - k) := by
    rw [Nat.sub_mul, ← Nat.pow_add, Nat.one_mul, show k + (51 - k) = 51 by omega]
  have hpos := Nat.two_pow_pos (51 - k)
  rw [show 52 - k = (51 - k) + 1 by omega, Nat.pow_succ, ← Nat.mul_assoc]
  omega

theorem msb_le {m : Mantissa} {k : Nat} (hlo : 2 ^ k ≤ m.toNat) : k ≤ 51 := by
  have := (Nat.pow_lt_pow_iff_right (by omega)).mp (hlo.trans_lt m.isLt)
  omega

section
variable {m : Mantissa} {k : Nat} (hlo : 2 ^ k ≤ m.toNat) (hhi : m.toNat < 2 ^ (k + 1))
include hlo hhi

theorem dec64_toNat : (dec64 m).toNat = (971 + k) * 2 ^ 52 + (m.toNat - 2 ^ k) * 2 ^ (52 - k) := by
  have hpos : m.toNat ≠ 0 := ((Nat.two_pow_pos k).trans_le hlo).ne'
  have hm : m ≠ 0 := fun h => hpos (by simp [h])
  have hlog : m.toNat.log2 = k := (Nat.log2_eq_iff hpos).mpr ⟨hlo, hhi⟩
  have hk := msb_le hlo
  have hfrac := dec64_fraction_le hlo hhi hk
  rw [dec64, if_neg hm, hlog]
  simp only [BitVec.toNat_ofNat]
  omega

theorem expField_dec64 : (expField (dec64 m)).toNat = 971 + k := by
  have hk := msb_le hlo
  have hfrac := dec64_fraction_le hlo hhi hk
  rw [expField_toNat, dec64_toNat hlo hhi]
  omega

theorem fracField_dec64 : (fracField (dec64 m)).toNat = (m.toNat - 2 ^ k) * 2 ^ (52 - k) := by
  have hfrac := dec64_fraction_le hlo hhi (msb_le hlo)
  rw [fracField_toNat, dec64_toNat hlo hhi]
  omega

/-- The hidden bit is `m`'s own most significant bit. -/
theorem magnitude_dec64_of_msb : magnitude (dec64 m) = m.toNat * gridStep := by
  have hk := msb_le hlo
  have hexp := expField_dec64 hlo hhi
  have hsig : 2 ^ 52 + (m.toNat - 2 ^ k) * 2 ^ (52 - k) = m.toNat * 2 ^ (52 - k) := by
    have h52 : 2 ^ k * 2 ^ (52 - k) = 2 ^ 52 := by rw [← pow_add, Nat.add_sub_cancel' hk.step]
    have hle := Nat.mul_le_mul_right (2 ^ (52 - k)) hlo
    rw [Nat.sub_mul, h52]
    omega
  have hstep : 2 ^ (52 - k) * 2 ^ (970 + k) = gridStep := by
    rw [gridStep, ← pow_add, show 52 - k + (970 + k) = 1022 by omega]
  rw [magnitude_of_fields (e := 970 + k) (by omega) (fracField_dec64 hlo hhi), hsig, Nat.mul_assoc, hstep]

end

/-- A mantissa is 0 or has a most significant bit. -/
theorem mantissa_cases (m : Mantissa) : m = 0 ∨ ∃ k, 2 ^ k ≤ m.toNat ∧ m.toNat < 2 ^ (k + 1) := by
  by_cases h : m.toNat = 0
  · exact .inl (BitVec.eq_of_toNat_eq h)
  · exact .inr ⟨_, (Nat.log2_eq_iff h).mp rfl⟩

theorem dec64_le (m : Mantissa) : (dec64 m).toNat ≤ 0x3FEFFFFFFFFFFFFE := by
  rcases mantissa_cases m with rfl | ⟨k, hlo, hhi⟩
  · decide
  · have hk := msb_le hlo
    have hfrac := dec64_fraction_le hlo hhi hk
    rw [dec64_toNat hlo hhi]
    omega

theorem inUnit_dec64 (m : Mantissa) : inUnit (dec64 m) = true := by
  have := dec64_le m
  exact (inUnit_iff_toNat _).mpr (.inl (by omega))

/-- The magnitude of `dec64 m` is `m` grid steps (R84). -/
theorem magnitude_dec64 (m : Mantissa) : magnitude (dec64 m) = m.toNat * gridStep := by
  rcases mantissa_cases m with rfl | ⟨k, hlo, hhi⟩
  · rw [(magnitude_eq_zero_iff _).mpr rfl, show (0 : Mantissa).toNat = 0 from rfl, Nat.zero_mul]
  · exact magnitude_dec64_of_msb hlo hhi

theorem value_dec64 (m : Mantissa) : value (dec64 m) = some (gridValue m.toNat) := by
  rw [value_of_inUnit (inUnit_dec64 m), magnitude_dec64, Nat.cast_mul, ofScaled_grid]

/-- DEC's result is never subnormal (R83). -/
theorem classify_dec64 (m : Mantissa) : classify (dec64 m) ∈ [FloatClass.zero, .normal] := by
  rcases mantissa_cases m with rfl | ⟨k, hlo, hhi⟩
  · decide
  · have hk := msb_le hlo
    have hexp := expField_dec64 hlo hhi
    have hnormal : classify (dec64 m) = .normal := by
      rw [classify, if_neg (mt (expField_eq_zero_iff _).mp (by omega)), if_neg fun h => ?_]
      have h2047 : (expField (dec64 m)).toNat = 2047 := by rw [h]; rfl
      omega
    simp [hnormal]

/-- Fewer than `2^52` grid steps are a binary64 number, so rounding gives its own pattern. -/
theorem roundMagnitude_grid (m : Mantissa) : roundMagnitude (m.toNat * gridStep) = (dec64 m).toNat := by
  have hle := dec64_le m
  rw [← magnitude_dec64, roundMagnitude_magnitude (isFinite_of_inUnit (inUnit_dec64 m)), Nat.mod_eq_of_lt (by omega)]

/-! ## DEC as a binary64 difference -/

/-- Turning the sign of 1.0 round (R86). -/
theorem scaled_negOne : scaled (xor64 expOne 0x8000000000000000) = -(magnitude expOne : Int) := by
  rw [scaled_eq, if_pos (by decide), magnitude_of_fields (e := 1022) (f := 0) rfl rfl,
    magnitude_of_fields (x := expOne) (e := 1022) (f := 0) rfl rfl]

/-- Below `2^52` the pattern `DATA | EXP_ONE` is EXP_ONE with DATA as its fraction. -/
theorem or_expOne_toNat {data : Word} (h : data.toNat < 2 ^ 52) :
    (data ||| expOne).toNat = 1023 * 2 ^ 52 + data.toNat := by
  rw [BitVec.toNat_or, Nat.or_comm]
  exact (Nat.two_pow_add_eq_or_of_lt h 1023).symm.trans (by omega)

section
variable {data : Word} (h : data.toNat < 2 ^ 52)
include h

theorem expField_or_expOne : (expField (data ||| expOne)).toNat = 1023 := by
  rw [expField_toNat, or_expOne_toNat h]
  omega

theorem isFinite_or_expOne : isFinite (data ||| expOne) = true :=
  (isFinite_iff _).mpr (by rw [expField_or_expOne h]; decide)

theorem signField_or_expOne : signField (data ||| expOne) = false := by
  rw [signField_eq, or_expOne_toNat h, decide_eq_false_iff_not]
  omega

theorem magnitude_or_expOne : magnitude (data ||| expOne) = (2 ^ 52 + data.toNat) * gridStep := by
  have hexp := expField_or_expOne h
  have hfrac : (fracField (data ||| expOne)).toNat = data.toNat := by
    rw [fracField_toNat, or_expOne_toNat h]
    omega
  rw [magnitude_of_fields hexp hfrac, gridStep]

theorem fracField_toNat_of_lt : (fracField data).toNat = data.toNat := by
  rw [fracField_toNat, Nat.mod_eq_of_lt h]

/-- The difference is exact: 1.0 takes the hidden bit away and leaves the fraction as a count of grid steps (R84). -/
theorem fsub64_expOne : fsub64 (data ||| expOne) expOne = some (dec64 (fracField data)) := by
  have hfin : isFinite (xor64 expOne 0x8000000000000000) = true := by decide
  have hpos : scaled (data ||| expOne) = magnitude (data ||| expOne) := by
    rw [scaled_eq, signField_or_expOne h]
    rfl
  have hdiff : scaled (data ||| expOne) + scaled (xor64 expOne 0x8000000000000000) =
      ((fracField data).toNat * gridStep : Nat) := by
    rw [hpos, scaled_negOne, magnitude_or_expOne h, magnitude_expOne, fracField_toNat_of_lt h]
    push_cast
    ring
  rw [fsub64, fadd64_of_nonneg (isFinite_or_expOne h) hfin hdiff (by simp [signField_or_expOne h]),
    roundMagnitude_grid, BitVec.ofNat_toNat, BitVec.setWidth_eq]

theorem exec_dec_inside (s : State) : exec (.dec data) s = .next (respond .ok (dec64 (fracField data)) s) := by
  rw [exec_dec, (highField_beq_zero_iff data).mpr h]
  rfl

end

theorem exec_dec_outside {data : Word} (s : State) (h : 2 ^ 52 ≤ data.toNat) :
    exec (.dec data) s = .next (raise .domain s) := by
  have hhigh : (highField data == 0) = false :=
    Bool.eq_false_iff.mpr fun hz => absurd ((highField_beq_zero_iff data).mp hz) (by omega)
  rw [exec_dec, hhigh]
  rfl

/-- Settles O18: the exact difference is `dec64` of the mantissa, a zero or a normal pattern. -/
theorem decIsThePatternMinusOne : Obligations.DecIsThePatternMinusOne := by
  refine ⟨decode_commandWord .DEC, fun s data h => ?_, fun s data h => exec_dec_outside s h, ?_⟩
  · exact ⟨_, fsub64_expOne h, exec_dec_inside h s, rfl, fun h0 => by rw [h0]; rfl, classify_dec64 _, dec64_le _⟩
  · decide

/-! ## The round trip -/

theorem enc52_of_grid {x : Word} {m : Mantissa} (h : inUnit x = true) (hm : magnitude x = m.toNat * gridStep) :
    enc52 x = m := by
  rw [enc52_eq h, encRounded_of_grid hm, BitVec.ofNat_toNat, BitVec.setWidth_eq]

/-- ENC undoes DEC (R85): a grid value needs no rounding. -/
theorem enc52_dec64 (m : Mantissa) : enc52 (dec64 m) = m := enc52_of_grid (inUnit_dec64 m) (magnitude_dec64 m)

theorem fracField_zext64 (m : Mantissa) : fracField (zext64 m) = m := by
  apply BitVec.eq_of_toNat_eq
  rw [fracField_toNat, zext64_toNat, Nat.mod_eq_of_lt m.isLt]

/-- The round trip as commands: DEC of a mantissa, then ENC of what it answered. -/
theorem exec_dec_enc {s t : State} {m : Mantissa} (h : exec (.dec (zext64 m)) s = .next t) :
    t = respond .ok (dec64 m) s ∧ exec (.enc (dec64 m)) t = .next (respond .ok (zext64 m) t) := by
  have hlt : (zext64 m).toNat < 2 ^ 52 := (zext64_toNat m).trans_lt m.isLt
  rw [exec_dec_inside hlt, fracField_zext64] at h
  cases h
  rw [exec_enc_inside _ (inUnit_dec64 m), enc52_dec64]
  exact ⟨rfl, rfl⟩

/-- A pattern of the unit interval but -0 is the pattern of a mantissa as soon as it has its magnitude. -/
theorem dec64_eq_of_magnitude {x : Word} {m : Mantissa} (h : inUnit x = true) (hneg : x ≠ 0x8000000000000000)
    (hm : magnitude x = m.toNat * gridStep) : dec64 m = x := by
  have hx : x.toNat ≠ 2 ^ 63 := fun hx => hneg (BitVec.eq_of_toNat_eq hx)
  have hlt : x.toNat < 1023 * 2 ^ 52 := ((inUnit_iff_toNat x).mp h).resolve_right hx
  have hle := dec64_le m
  exact eq_of_magnitude_eq (isFinite_of_inUnit (inUnit_dec64 m)) (isFinite_of_inUnit h) (by omega) (by omega)
    ((magnitude_dec64 m).trans hm.symm)

theorem value_eq_gridValue_iff {x : Word} (h : inUnit x = true) (k : Nat) :
    value x = some (gridValue k) ↔ magnitude x = k * gridStep := by
  rw [value_of_inUnit h, Option.some_inj, ← ofScaled_grid, ofScaled_strictMono.injective.eq_iff]
  exact_mod_cast Iff.rfl

/-- DEC undoes ENC on the patterns of grid values, -0 excepted. -/
theorem dec64_enc52_eq_iff {x : Word} (h : inUnit x = true) :
    dec64 (enc52 x) = x ↔ x ≠ 0x8000000000000000 ∧ ∃ k < 2 ^ 52, value x = some (gridValue k) := by
  constructor
  · intro hx
    have hle := dec64_le (enc52 x)
    refine ⟨fun hneg => ?_, _, (enc52 x).isLt, (congrArg value hx).symm.trans (value_dec64 _)⟩
    rw [hx, hneg] at hle
    exact absurd hle (by decide)
  · rintro ⟨hneg, k, hk, hv⟩
    have hm : magnitude x = (BitVec.ofNat 52 k).toNat * gridStep := by
      rw [BitVec.toNat_ofNat, Nat.mod_eq_of_lt hk]
      exact (value_eq_gridValue_iff h k).mp hv
    rw [enc52_of_grid h hm, dec64_eq_of_magnitude h hneg hm]

/-- Only the last pattern below 1.0 rounds up to 1.0 (R80). -/
theorem eq_of_encRounded_eq_top {x : Word} (h : inUnit x = true) (hq : encRounded x = 2 ^ 52) :
    x = 0x3FEFFFFFFFFFFFFF := by
  obtain ⟨hnear, -⟩ := encRounded_near x
  rw [hq, gridStep_eq] at hnear
  have hpos := halfStep_pos
  have hle := expField_le_of_inUnit h
  have hf := (fracField x).isLt
  have hexp : (expField x).toNat = 1022 := by
    by_contra hne
    have hlt : magnitude x < 2 ^ 52 * halfStep := by
      rw [halfStep]
      exact (magnitude_lt_iff x 1021).mpr (by omega)
    omega
  have hmag : magnitude x = (2 ^ 52 + (fracField x).toNat) * halfStep := by
    rw [magnitude_of_fields hexp rfl, halfStep]
  have hfrac : 2 ^ 53 ≤ 2 ^ 52 + (fracField x).toNat + 1 := by
    refine Nat.le_of_mul_le_mul_right ?_ hpos
    rw [Nat.add_mul _ 1, ← hmag]
    omega
  have hfields := toNat_mod_eq_fields x
  have hin := (inUnit_iff_toNat x).mp h
  apply BitVec.eq_of_toNat_eq
  change x.toNat = 0x3FEFFFFFFFFFFFFF
  omega

/-- Below that pattern ENC answers the nearest grid value, at most `2^-53` away. -/
theorem abs_value_sub_enc52_le {x : Word} {r : ℚ} (h : inUnit x = true) (hne : x ≠ 0x3FEFFFFFFFFFFFFF)
    (hr : value x = some r) : |r - gridValue (enc52 x).toNat| ≤ 2 ^ (-53 : ℤ) := by
  have hlt : encRounded x < 2 ^ 52 := lt_of_le_of_ne (encRounded_le h) (mt (eq_of_encRounded_eq_top h) hne)
  have hq : (enc52 x).toNat = encRounded x := by rw [enc52_eq h, BitVec.toNat_ofNat, Nat.mod_eq_of_lt hlt]
  obtain rfl : ofScaled (magnitude x) = r := by simpa [value_of_inUnit h] using hr
  obtain ⟨hup, hdown⟩ := encRounded_near x
  rw [hq, ← ofScaled_grid, ← ofScaled_halfStep, abs_sub_le_iff, sub_le_iff_le_add, sub_le_iff_le_add, ← ofScaled_add,
    ← ofScaled_add, ofScaled_strictMono.le_iff_le, ofScaled_strictMono.le_iff_le]
  constructor
  · exact_mod_cast hdown.trans_eq (Nat.add_comm _ _)
  · exact_mod_cast hup.trans_eq (Nat.add_comm _ _)

/-- Settles O20: both compositions of the codec, as functions and as commands. -/
theorem codecRoundTrip : Obligations.CodecRoundTrip := by
  refine ⟨fun m => ⟨inUnit_dec64 m, enc52_dec64 m⟩, fun s t m hdec => ?_, fun x h => dec64_enc52_eq_iff h,
    fun x h => ⟨(enc52 x).toNat, (enc52 x).isLt, value_dec64 _, ?_, fun hne r => abs_value_sub_enc52_le h hne⟩⟩
  · obtain ⟨rfl, henc⟩ := exec_dec_enc hdec
    exact ⟨_, rfl, henc⟩
  · rintro rfl
    decide +kernel

end Sys2Proof.Machine

/-! # Proofs: the state transition (42_transition R90, R92) -/

namespace Sys2Proof.Machine

/-! ## The recurrence over the integers -/

/-- The two xorshifts of R90: the second acts on the result of the first. -/
theorem xorshift_toNat (a : Word) :
    let t1 := a.toNat ^^^ (a.toNat * 2 ^ 23 % 2 ^ 64)
    (xorshift a).toNat = t1 ^^^ (t1 / 2 ^ 17) := by
  rw [xorshift, xor64_toNat, shr64_toNat, xor64_toNat, shl64_toNat, shiftA, shiftB]

/-- The new state1 is the xorshift of the old state0, with the old state1 and its right shift. -/
theorem transition_snd_toNat (a b : Word) :
    (transition a b).2.toNat = ((xorshift a).toNat ^^^ b.toNat) ^^^ (b.toNat / 2 ^ 26) := by
  rw [transition, xor64_toNat, xor64_toNat, shr64_toNat, shiftC]

/-- Settles O21: the new state0 is b as it stands, the new state1 is the closed form of R90. -/
theorem transitionComputesTheRecurrence : Obligations.TransitionComputesTheRecurrence := by
  intro a b t1 t2
  refine ⟨rfl, ?_⟩
  rw [transition_snd_toNat, xorshift_toNat]

/-! ## STEP -/

/-- Settles O25, by the two cases of the flags; the example is R92's. -/
theorem stepAdvancesTheGeneratorState : Obligations.StepAdvancesTheGeneratorState :=
  ⟨decode_commandWord .STEP, fun _ => exec_step_of_valid, fun _ => exec_step_of_invalid, by decide⟩

end Sys2Proof.Machine

/-! # Proofs: the output formatting functions and commands (43_output_format R100 to R105) -/

namespace Sys2Proof.Machine

/-! ## The formatting functions -/

theorem zext64_lt (m : Mantissa) : (zext64 m).toNat < 2 ^ 52 := (zext64_toNat m).trans_lt m.isLt

theorem mant52_eq_ofNat (w : Word) : mant52 w = BitVec.ofNat 52 (w.toNat / 2 ^ 12) := by
  rw [← mant52_toNat, BitVec.ofNat_toNat, BitVec.setWidth_eq]

theorem zext64_mant52 (w : Word) : zext64 (mant52 w) = w >>> 12 := by
  apply BitVec.eq_of_toNat_eq
  rw [zext64_toNat, mant52_toNat, BitVec.toNat_ushiftRight, Nat.shiftRight_eq_div_pow]

/-- `dbl64` is the pattern DEC subtracts 1.0 from, at the mantissa of the word (R83, R104). -/
theorem dbl64_eq (w : Word) : dbl64 w = zext64 (mant52 w) ||| expOne := BitVec.or_comm ..

theorem dbl64_toNat (w : Word) : (dbl64 w).toNat = 1023 * 2 ^ 52 + (mant52 w).toNat := by
  rw [dbl64_eq, or_expOne_toNat (zext64_lt _), zext64_toNat]

theorem signField_dbl64 (w : Word) : signField (dbl64 w) = false := by
  rw [dbl64_eq, signField_or_expOne (zext64_lt _)]

theorem expField_dbl64 (w : Word) : (expField (dbl64 w)).toNat = 1023 := by
  rw [dbl64_eq, expField_or_expOne (zext64_lt _)]

theorem fracField_dbl64 (w : Word) : fracField (dbl64 w) = mant52 w := by
  apply BitVec.eq_of_toNat_eq
  rw [fracField_toNat, dbl64_toNat, Nat.mul_add_mod_self_right, Nat.mod_eq_of_lt (mant52 w).isLt]

theorem scaled_dbl64 (w : Word) : scaled (dbl64 w) = ((2 ^ 52 + (mant52 w).toNat : Nat) : Int) * gridStep := by
  rw [scaled_eq, signField_dbl64, dbl64_eq, magnitude_or_expOne (zext64_lt _), zext64_toNat, Nat.cast_mul]
  rfl

theorem gridValue_add (a b : Nat) : gridValue (a + b) = gridValue a + gridValue b := by
  rw [gridValue, Nat.cast_add, add_mul]
  rfl

theorem value_dbl64 (w : Word) : value (dbl64 w) = some (1 + gridValue (mant52 w).toNat) := by
  have hfin : isFinite (dbl64 w) = true := by rw [dbl64_eq, isFinite_or_expOne (zext64_lt _)]
  rw [value_of_isFinite hfin, scaled_dbl64, ofScaled_grid, gridValue_add, gridValue_one]

/-- The output is the binary64 difference of `dbl64` and 1.0 (R102). -/
theorem fsub64_dbl64 (w : Word) : fsub64 (dbl64 w) expOne = some (out64 w) := by
  rw [dbl64_eq, fsub64_expOne (zext64_lt _), fracField_zext64, out64]

/-- The output by the top bits of the word, as a number. -/
theorem out64_of_div {w : Word} {n : Nat} (h : w.toNat / 2 ^ 12 = n) : out64 w = dec64 (BitVec.ofNat 52 n) := by
  rw [out64, mant52_eq_ofNat, h]

/-- Settles O26, from the fields of `dbl64` and the grid values that the two patterns stand for. -/
theorem formattingFunctions : Obligations.FormattingFunctions := by
  intro w
  rw [← mant52_toNat]
  exact ⟨rfl, signField_dbl64 w, expField_dbl64 w, fracField_dbl64 w, value_dbl64 w, rfl, value_dec64 _⟩

/-! ## MANT, DBL and OUT -/

theorem exec_mant_of_valid {s : State} (h : s.v0 = true) :
    exec .mant s = .next (respond .ok (zext64 (mant52 s.s0)) s) :=
  (exec_mant s).trans (withS0_of_valid _ h)

theorem exec_dbl_of_valid {s : State} (h : s.v0 = true) : exec .dbl s = .next (respond .ok (dbl64 s.s0) s) :=
  (exec_dbl s).trans (withS0_of_valid _ h)

theorem exec_out_of_valid {s : State} (h : s.v0 = true) : exec .out s = .next (respond .ok (out64 s.s0) s) :=
  (exec_out s).trans (withS0_of_valid _ h)

/-- Settles O27, by the two cases of the reader of S0. -/
theorem mantReturnsTheTopBitsOfS0 : Obligations.MantReturnsTheTopBitsOfS0 := by
  refine ⟨decode_commandWord .MANT, fun s h => ?_, fun s h => (exec_mant s).trans (withS0_of_invalid _ h)⟩
  rw [← mant52_toNat, ← zext64_toNat, BitVec.ofNat_toNat, BitVec.setWidth_eq]
  exact exec_mant_of_valid h

/-- Settles O28, by the two cases of the reader of S0; the range is that of `1023 * 2^52` plus a mantissa. -/
theorem dblReturnsThePatternInOneToTwo : Obligations.DblReturnsThePatternInOneToTwo := by
  refine ⟨decode_commandWord .DBL, fun s h => ?_, fun s h => (exec_dbl s).trans (withS0_of_invalid _ h),
    fun w => ?_, by decide, by decide⟩
  · rw [← zext64_mant52]
    exact exec_dbl_of_valid h
  · have hlt := (mant52 w).isLt
    rw [dbl64_toNat]
    omega

/-- OUT leaves S0 and V0, so it answers the same again (R102). -/
theorem exec_out_repeated {s t u : State} (h : s.v0 = true) (ht : exec .out s = .next t)
    (hu : exec .out t = .next u) : ∃ r, t.responses = s.responses ++ [r] ∧ u.responses = t.responses ++ [r] := by
  cases (exec_out_of_valid h).symm.trans ht
  cases (exec_out_of_valid (by simpa using h)).symm.trans hu
  exact ⟨_, rfl, rfl⟩

/-- Settles O29, by the two cases of the reader of S0; the output is a pattern of the unit interval. -/
theorem outReturnsTheOutputOfS0 : Obligations.OutReturnsTheOutputOfS0 := by
  refine ⟨decode_commandWord .OUT, fun s h => ?_, fun s h => (exec_out s).trans (withS0_of_invalid _ h),
    fun s t u => exec_out_repeated⟩
  refine ⟨out64 s.s0, fsub64_dbl64 _, exec_out_of_valid h, fun hlow => ?_, fun hone => ?_, fun hhalf => ?_,
    fun htop => ?_, (inUnit_iff_value _).mp (inUnit_dec64 _)⟩
  · exact out64_of_div (n := 0) (by omega)
  · rw [hone]
    decide
  · rw [hhalf]
    decide +kernel
  · have hlt := s.s0.isLt
    exact (out64_of_div (n := 0xFFFFFFFFFFFFF) (by omega)).trans (by decide +kernel)

/-! ## NEXT -/

theorem exec_next_of_valid {s : State} (h0 : s.v0 = true) (h1 : s.v1 = true) : exec .next s =
    .next (respond .ok (out64 (transition s.s0 s.s1).1) (storePair (transition s.s0 s.s1) s)) :=
  (exec_next s).trans (withPair_of_valid _ h0 h1)

/-- NEXT is STEP followed by OUT, without STEP's response (R103). -/
theorem exec_next_eq_step_out {s t u v : State} (h0 : s.v0 = true) (h1 : s.v1 = true) (ht : exec .next s = .next t)
    (hu : exec .step s = .next u) (hv : exec .out u = .next v) :
    ∃ r, t.responses = s.responses ++ [r] ∧ v = { t with responses := s.responses ++ [⟨.ok, 0⟩, r] } := by
  cases (exec_next_of_valid h0 h1).symm.trans ht
  cases (exec_step_of_valid h0 h1).symm.trans hu
  cases (exec_out_of_valid (by simpa using h0)).symm.trans hv
  exact ⟨_, rfl, by simp [respond, storePair]⟩

/-- Settles O30, by the two cases of the flags and the comparison with STEP then OUT; the examples are R103's. -/
theorem nextStepsThenOutputs : Obligations.NextStepsThenOutputs := by
  refine ⟨decode_commandWord .NEXT, fun s h0 h1 => ?_, fun s h => (exec_next s).trans (withPair_of_invalid _ h),
    fun s t u v h0 h1 ht hu hv => ?_, by decide, by decide +kernel, by decide, by decide⟩
  · rw [← mant52_eq_ofNat]
    exact exec_next_of_valid h0 h1
  · obtain ⟨r, hresp, rfl⟩ := exec_next_eq_step_out h0 h1 ht hu hv
    simp [hresp]

/-! ## The generator -/

theorem outputs_succ (n : Nat) (a b : Word) : outputs (n + 1) a b =
    out64 (transition a b).1 :: outputs n (transition a b).1 (transition a b).2 := by
  rw [outputs, List.range_succ_eq_map, List.map_cons, List.map_map]
  rfl

theorem assembleLine_seed (a b : Word) :
    assembleLine (.seed a.toNat b.toNat) = some [encode (.ld0 a), encode (.ld1 b)] := by
  simp [assembleLine, expandLine_seed]

theorem assemble_seed_gen (a b : Word) (n : Nat) : assemble [.seed a.toNat b.toNat, .gen n] =
    some (encode (.ld0 a) :: encode (.ld1 b) :: List.replicate n (encode .next)) := by
  simp [assemble, assembleLine_seed, assembleLine_gen]

/-- `n` NEXT commands presented to a seeded engine step the pair `n` times and answer the `n` outputs in order. -/
theorem run_gen (n : Nat) {s : State} {rest : List HostEvent}
    (hin : s.input = (List.replicate n (encode .next)).map .command ++ rest) (h0 : s.v0 = true) (h1 : s.v1 = true) :
    Host.Core.run core n s = .next { storePair (transitions n (s.s0, s.s1)) s with
      input := rest, responses := s.responses ++ (outputs n s.s0 s.s1).map (⟨.ok, ·⟩) } := by
  induction n generalizing s with
  | zero =>
    obtain rfl : s.input = rest := hin
    simp [Host.Core.run, transitions, outputs, storePair]
  | succ n ih =>
    calc Host.Core.run core (n + 1) s
      _ = Host.Core.run core n _ := run_of_step n (step_of_next hin h0 h1)
      _ = _ := ih rfl h0 h1
      _ = _ := by simp [transitions, storePair, outputs_succ]

/-- Settles O31: the run is a seeding of the engine and then `n` NEXT commands. -/
theorem generatorEmitsTheSequence : Obligations.GeneratorEmitsTheSequence := by
  intro n a b s ws rest hws hin
  obtain rfl : encode (.ld0 a) :: encode (.ld1 b) :: List.replicate n (encode .next) = ws := by
    simpa [assemble_seed_gen] using hws
  exact ⟨_, (run_seed n hin).trans (run_gen n rfl rfl rfl), rfl, rfl, rfl, rfl, rfl⟩

end Sys2Proof.Machine

/-! # Proofs: the errors (60_exceptions R111 to R113, R117) -/

namespace Sys2Proof.Machine

/-! ## The status a command answers with -/

/-- The STATUS of a command with a precondition: OK where it is met, else the error named. -/
def statusWhen (met : Bool) (e : Error) : Status := if met then .ok else .error e

@[simp] theorem statusWhen_true (e : Error) : statusWhen true e = .ok := rfl

@[simp] theorem statusWhen_false (e : Error) : statusWhen false e = .error e := rfl

@[simp] theorem statusWhen_eq_error_iff (met : Bool) (e e' : Error) :
    statusWhen met e = .error e' ↔ met = false ∧ e = e' := by
  cases met <;> simp

/-- The STATUS of a command's response, by the preconditions R112 and R113 give the commands. -/
def answerStatus (i : Instr) (s : State) : Status :=
  match i with
  | .ld0 _ | .ld1 _ | .rdst | .clr => .ok
  | .rd0 | .mant | .dbl | .out => statusWhen s.v0 .unseeded
  | .rd1 => statusWhen s.v1 .unseeded
  | .step | .next => statusWhen (s.v0 && s.v1) .unseeded
  | .enc x => statusWhen (inUnit x) .domain
  | .dec x => statusWhen (highField x == 0) .domain

theorem withDomain_status {inDomain : Bool} {result : Word} {s t : State} (h : withDomain inDomain result s = .next t) :
    ∃ d, t.responses = s.responses ++ [⟨statusWhen inDomain .domain, d⟩] := by
  rcases withDomain_cases h with ⟨rfl, rfl⟩ | ⟨rfl, rfl⟩ <;> simp

/-- Every command answers with its `answerStatus`. -/
theorem exec_status {i : Instr} {s t : State} (h : exec i s = .next t) :
    ∃ d, t.responses = s.responses ++ [⟨answerStatus i s, d⟩] := by
  cases i with
  | ld0 | ld1 | rdst | clr =>
    cases h
    exact ⟨_, rfl⟩
  | rd0 | mant | dbl | out =>
    simp only [exec_rd0, exec_mant, exec_dbl, exec_out] at h
    rcases withS0_cases h with ⟨hv, rfl⟩ | ⟨hv, rfl⟩ <;> simp [answerStatus, hv]
  | rd1 =>
    rw [exec_rd1] at h
    rcases withS1_cases h with ⟨hv, rfl⟩ | ⟨hv, rfl⟩ <;> simp [answerStatus, hv]
  | step | next =>
    simp only [exec_step, exec_next] at h
    rcases withPair_cases h with ⟨h0, h1, rfl⟩ | ⟨h0 | h1, rfl⟩
    · simp [answerStatus, h0, h1]
    · simp [answerStatus, h0]
    · simp [answerStatus, h1]
  | enc x => exact withDomain_status ((exec_enc x s).symm.trans h)
  | dec x => exact withDomain_status ((exec_dec x s).symm.trans h)

/-- A command's response is the error `e` exactly when its `answerStatus` is. -/
theorem exec_answers_error_iff {i : Instr} {s t : State} (e : Error) (h : exec i s = .next t) :
    (∃ d, t.responses = s.responses ++ [⟨.error e, d⟩]) ↔ answerStatus i s = .error e := by
  obtain ⟨d, hd⟩ := exec_status h
  simp [hd]

/-! ## What an error response leaves -/

theorem raise_eq_of_responses {s : State} {e e' : Error} {d : Word}
    (h : (raise e' s).responses = s.responses ++ [⟨.error e, d⟩]) : raise e' s = raise e s := by
  obtain ⟨rfl, -⟩ : e' = e ∧ 0 = d := by simpa using h
  rfl

/-- A command that answers an error has raised it, and so changed nothing else (R117). -/
theorem exec_eq_raise {i : Instr} {s t : State} {e : Error} {d : Word} (h : exec i s = .next t)
    (hresp : t.responses = s.responses ++ [⟨.error e, d⟩]) : t = raise e s := by
  rcases exec_cases h with ⟨_, rfl⟩ | ⟨_, rfl, -⟩ | ⟨_, -, rfl⟩ | ⟨_, -, rfl⟩ | ⟨-, rfl⟩ | ⟨-, -, -, _, rfl⟩
  case inl => exact raise_eq_of_responses hresp
  all_goals simp at hresp

/-- A command word that is answered an error has raised it, the reserved words with the others. -/
theorem executeWord_eq_raise {c : CommandWord} {s t : State} {e : Error} {d : Word} (h : executeWord c s = .next t)
    (hresp : t.responses = s.responses ++ [⟨.error e, d⟩]) : t = raise e s := by
  rcases executeWord_cases h with ⟨i, -, hi⟩ | ⟨_, -, rfl⟩
  · exact exec_eq_raise hi hresp
  · exact raise_eq_of_responses hresp

/-! ## The errors of R112 and R113 -/

theorem answerStatus_eq_unseeded_iff (i : Instr) (s : State) : answerStatus i s = .error .unseeded ↔
    (i ∈ [Instr.rd0, .mant, .dbl, .out] ∧ s.v0 = false) ∨ (i = .rd1 ∧ s.v1 = false) ∨
      (i ∈ [Instr.step, .next] ∧ (s.v0 = false ∨ s.v1 = false)) := by
  cases i <;> simp [answerStatus, imp_iff_not_or]

theorem highField_beq_eq_false_iff (data : Word) : (highField data == 0) = false ↔ 2 ^ 52 ≤ data.toNat := by
  rw [← Bool.not_eq_true, highField_beq_zero_iff, not_lt]

theorem answerStatus_eq_domain_iff (i : Instr) (s : State) : answerStatus i s = .error .domain ↔
    (∃ x, i = .enc x ∧ inUnit x = false) ∨ (∃ x, i = .dec x ∧ 2 ^ 52 ≤ x.toNat) := by
  simp only [← highField_beq_eq_false_iff]
  cases i <;> simp [answerStatus]

/-- Settles O34, from the status every command answers with. -/
theorem unseededIsRaisedExactlyThere : Obligations.UnseededIsRaisedExactlyThere := by
  intro i s t h
  rw [exec_answers_error_iff .unseeded h, answerStatus_eq_unseeded_iff]
  exact ⟨Iff.rfl, fun _ hresp => exec_eq_raise h hresp⟩

/-- Settles O35, from the status every command answers with. -/
theorem domainErrorIsRaisedExactlyThere : Obligations.DomainErrorIsRaisedExactlyThere := by
  intro i s t h
  rw [exec_answers_error_iff .domain h, answerStatus_eq_domain_iff]
  exact ⟨Iff.rfl, fun _ hresp => exec_eq_raise h hresp⟩

/-- Settles O36: the step executes the word at the state with the word taken, where every error is raised. -/
theorem errorsWriteNoState : Obligations.ErrorsWriteNoState := by
  intro s t c rest e d hin h hresp
  rw [step_of_command hin] at h
  exact executeWord_eq_raise h hresp

end Sys2Proof.Machine

/-! # Proofs: reset (70_reset_and_hazards R130) -/

namespace Sys2Proof.Machine

/-- Settles O50: the step takes the reset by `discard`, which is also what CLR does before it answers. -/
theorem resetEventDiscardsTheGeneratorState : Obligations.ResetEventDiscardsTheGeneratorState := by
  intro s rest hin
  have hclr : exec .clr { s with input := rest } = .next (respond .ok 0 (discard { s with input := rest })) :=
    exec_clr _
  exact ⟨_, step_of_reset hin, discard_v0 _, discard_v1 _, discard_responses _, discard_input _, hclr⟩

end Sys2Proof.Machine

/-! # Proofs: the decoder against the encoder and the byte listings (20_memory R42, 30_encoding R51, R52, R59) -/

namespace Sys2Proof

/-! ## Commands and their two fields -/

theorem Instr.ofParts_mnemonic_operand (i : Instr) : Instr.ofParts i.mnemonic i.operand = i := by
  cases i <;> rfl

@[simp] theorem mnemonic_ofParts (m : Mnemonic) (data : Word) : (Instr.ofParts m data).mnemonic = m := by
  cases m <;> rfl

theorem operand_ofParts (m : Mnemonic) (data : Word) :
    (Instr.ofParts m data).operand = if m.format = .N then 0 else data := by
  cases m <;> rfl

theorem decode_encode (i : Instr) : decode (encode i) = .ok i :=
  calc decode (encode i) = .ok (Instr.ofParts i.mnemonic i.operand) := decode_commandWord i.mnemonic i.operand
    _ = .ok i := by rw [i.ofParts_mnemonic_operand]

/-- Settles O1: the canonical word of a command is its opcode and its operand, and the decoder puts them together. -/
theorem decodeOfEncodeIsTheCommand : Obligations.DecodeOfEncodeIsTheCommand := decode_encode

/-- A word decodes to a command only through a name of the opcode map. -/
theorem decode_eq_ok {c : CommandWord} {i : Instr} (h : decode c = .ok i) :
    ∃ m, m.opcode = opField c ∧ i = Instr.ofParts m (dataField c) := by
  cases hm : Mnemonic.ofOpcode (opField c) with
  | none => cases (decode_of_reserved hm).symm.trans h
  | some m =>
    cases (decode_of_ofOpcode hm).symm.trans h
    exact ⟨m, opcode_of_ofOpcode hm, rfl⟩

/-- Settles O2, from the name the word decodes through. -/
theorem encodeOfDecodeIsTheCanonicalWord : Obligations.EncodeOfDecodeIsTheCanonicalWord := by
  intro c i h
  obtain ⟨m, hop, rfl⟩ := decode_eq_ok h
  rw [encode, mnemonic_ofParts, operand_ofParts]
  exact ⟨hop, by rw [hop]⟩

/-! ## The byte listing -/

/-- The nine bytes put together again are the word. -/
theorem append_commandBytes (c : CommandWord) :
    c.extractLsb' 64 8 ++ c.extractLsb' 56 8 ++ c.extractLsb' 48 8 ++ c.extractLsb' 40 8 ++ c.extractLsb' 32 8 ++
      c.extractLsb' 24 8 ++ c.extractLsb' 16 8 ++ c.extractLsb' 8 8 ++ c.extractLsb' 0 8 = c := by
  iterate 8 rw [BitVec.extractLsb'_append_extractLsb'_eq_extractLsb' (by decide)]
  exact BitVec.extractLsb'_eq_self

theorem decodeBytes_commandBytes (c : CommandWord) (rest : List Byte) :
    decodeBytes (commandBytes c ++ rest) = (decode c).map fun i => (i, rest) := by
  rw [commandBytes]
  simp only [List.cons_append, List.nil_append, decodeBytes, append_commandBytes]
  cases decode c <;> rfl

theorem decodeBytes_of_length_lt {bs : List Byte} (h : bs.length < 9) :
    decodeBytes bs = .error (.partialCommand bs.length) := by
  unfold decodeBytes
  split
  · simp only [List.length_cons] at h
    omega
  · rfl

/-- Settles O6: the nine bytes make up the word, and fewer meet the decoder's last case. -/
theorem byteListingDecodesAsItsWord : Obligations.ByteListingDecodesAsItsWord :=
  ⟨fun c rest => ⟨rfl, rfl, decodeBytes_commandBytes c rest⟩, fun _ => decodeBytes_of_length_lt⟩

/-- Settles O5: nine closed words, evaluated. -/
theorem specWordsDecode : Obligations.SpecWordsDecode := by
  unfold Obligations.SpecWordsDecode
  decide

end Sys2Proof

/-! # Proofs: the integer forms of the codec (41_codec R82, R84) -/

namespace Sys2Proof.Machine

/-! ## The fields as the integer form of ENC reads them -/

theorem encSignificand_eq (x : Word) : encSignificand x =
    if x.toNat / 2 ^ 52 % 2 ^ 11 = 0 then x.toNat % 2 ^ 52 else 2 ^ 52 + x.toNat % 2 ^ 52 := by
  simp only [encSignificand, expField_eq_zero_iff, expField_toNat, fracField_toNat]

theorem encScale_eq (x : Word) : encScale x =
    if x.toNat / 2 ^ 52 % 2 ^ 11 = 0 then 1022 else 1023 - x.toNat / 2 ^ 52 % 2 ^ 11 := by
  simp only [encScale, expField_eq_zero_iff, expField_toNat]

theorem encSignificand_lt (x : Word) : encSignificand x < 2 ^ 53 := by
  have hf := (fracField x).isLt
  rw [encSignificand]
  split <;> omega

section
variable {x : Word} (h : inUnit x = true)
include h

theorem encScale_pos : 1 ≤ encScale x := by
  have hle := expField_le_of_inUnit h
  rw [encScale]
  split <;> omega

/-- The scale of R82 and the exponent that the magnitude carries make up the 1022 of a grid step. -/
theorem encScale_add : encScale x + ((expField x).toNat - 1) = 1022 := by
  have hle := expField_le_of_inUnit h
  by_cases he : (expField x).toNat = 0
  · rw [encScale, if_pos ((expField_eq_zero_iff x).mpr he), he]
  · rw [encScale, if_neg (mt (expField_eq_zero_iff x).mp he)]
    omega

theorem roundHalfEven_encSignificand : roundHalfEven (encSignificand x) (encScale x) = encRounded x := by
  rw [encRounded, magnitude, ← encScale_add h, roundHalfEven_mul_two_pow_add _ _ (encScale_pos h)]

/-- The real value of an operand is `sig / 2^s * 2^-52` (R82). -/
theorem value_eq_encSignificand :
    value x = some ((encSignificand x : ℚ) / 2 ^ encScale x * 2 ^ (-52 : ℤ)) := by
  have hscale : (2 : ℚ) ^ ((expField x).toNat - 1) = 2 ^ 1022 / 2 ^ encScale x := by
    rw [← encScale_add h, pow_add, mul_div_cancel_left₀ _ (by positivity)]
  have hgrid : (2 : ℚ) ^ 1022 * 2 ^ (-1074 : ℤ) = 2 ^ (-52 : ℤ) := by
    rw [← zpow_natCast, ← zpow_add₀ two_ne_zero]
    rfl
  rw [value_of_inUnit h, ofScaled, magnitude, Int.cast_natCast, Nat.cast_mul, Nat.cast_pow, Nat.cast_ofNat, hscale,
    ← hgrid]
  generalize (2 : ℚ) ^ 1022 = grid
  congr 1
  ring

/-- The rounded operand is 1.0 for the last pattern below it only (R80, R82). -/
theorem encRounded_eq_top_iff : encRounded x = 2 ^ 52 ↔ x = 0x3FEFFFFFFFFFFFFF := by
  constructor
  · exact eq_of_encRounded_eq_top h
  · rintro rfl
    decide +kernel

/-- Under the scale 54 and above the operand is less than half a grid step. -/
theorem encRounded_eq_zero (hs : 54 ≤ encScale x) : encRounded x = 0 := by
  have hsig := encSignificand_lt x
  have hpow : 2 ^ 54 ≤ 2 ^ encScale x := Nat.pow_le_pow_right (by omega) hs
  rw [← roundHalfEven_encSignificand h]
  exact roundHalfEven_eq_zero (encScale_pos h) (by omega)

end

/-- Settles O17: `q` is the rounded significand, whose bounds are those of the rounding step. -/
theorem enc52RoundsToNearestEven : Obligations.Enc52RoundsToNearestEven := by
  intro x h e f sig s
  have hsig : encSignificand x = sig := encSignificand_eq x
  have hs : encScale x = s := encScale_eq x
  rw [← hsig, ← hs]
  obtain ⟨hup, hdown, htie⟩ := roundHalfEven_spec (encSignificand x) (encScale x) (encScale_pos h)
  rw [roundHalfEven_encSignificand h] at hup hdown htie
  exact ⟨value_eq_encSignificand h, encRounded x, by rw [enc52_eq h, BitVec.toNat_ofNat], hup, hdown, htie,
    encRounded_eq_top_iff h, encRounded_le h, encRounded_eq_zero h⟩

theorem signField_dec64 (m : Mantissa) : signField (dec64 m) = false := by
  have hle := dec64_le m
  rw [signField_eq, decide_eq_false_iff_not]
  omega

/-- Settles O19, from the fields and the value of `dec64`. -/
theorem dec64IsTheExactGridValue : Obligations.Dec64IsTheExactGridValue :=
  ⟨rfl, fun m _ hlo hhi => ⟨signField_dec64 m, expField_dec64 hlo hhi, fracField_dec64 hlo hhi⟩, value_dec64⟩

end Sys2Proof.Machine

/-! # Proofs: laws of the state transition (42_transition R90, R93, R94) -/

namespace Sys2Proof.Machine

/-! ## Bit by bit -/

theorem xor64_getLsbD (a b : Word) (i : Nat) : (xor64 a b).getLsbD i = (a.getLsbD i ^^ b.getLsbD i) :=
  BitVec.getLsbD_xor

theorem shr64_getLsbD (a : Word) (n i : Nat) : (shr64 a n).getLsbD i = a.getLsbD (i + n) := by
  rw [shr64, BitVec.getLsbD_ushiftRight, Nat.add_comm]

theorem shl64_getLsbD (a : Word) (n : Nat) {i : Nat} (hi : i < 64) :
    (shl64 a n).getLsbD i = (decide (n ≤ i) && a.getLsbD (i - n)) := by
  simp only [shl64, BitVec.getLsbD_shiftLeft, hi, decide_true, Bool.true_and, ← decide_not, not_lt]

/-- Bit `j` of `t1` in R90, for `j` from 0 to 63. -/
def leftXorBit (a : Word) (j : Nat) : Bool := a.getLsbD j ^^ (decide (23 ≤ j) && a.getLsbD (j - 23))

/-- Bit `j` of `t2` in R90, an index past 63 contributing 0. -/
def xorshiftBit (a : Word) (j : Nat) : Bool := leftXorBit a j ^^ (decide (j + 17 < 64) && leftXorBit a (j + 17))

theorem leftXor_getLsbD (a : Word) (j : Nat) :
    (xor64 a (shl64 a shiftA)).getLsbD j = (decide (j < 64) && leftXorBit a j) := by
  by_cases hj : j < 64
  · rw [xor64_getLsbD, shl64_getLsbD a shiftA hj, decide_eq_true hj, Bool.true_and, leftXorBit, shiftA]
  · rw [BitVec.getLsbD_of_ge _ _ (by omega), decide_eq_false hj, Bool.false_and]

theorem xorshift_getLsbD (a : Word) {i : Nat} (hi : i < 64) : (xorshift a).getLsbD i = xorshiftBit a i := by
  rw [xorshift, xor64_getLsbD, shr64_getLsbD, leftXor_getLsbD, leftXor_getLsbD, decide_eq_true hi, Bool.true_and,
    xorshiftBit, shiftB]

theorem transition_snd_getLsbD (a b : Word) {i : Nat} (hi : i < 64) :
    (transition a b).2.getLsbD i = ((xorshiftBit a i ^^ b.getLsbD i) ^^ b.getLsbD (i + 26)) := by
  rw [transition, xor64_getLsbD, xor64_getLsbD, shr64_getLsbD, xorshift_getLsbD a hi, shiftC]

/-- Settles O22: the bit equations of R90, where an index past bit 63 or below bit 0 leaves a term out. -/
theorem transitionBitEquations : Obligations.TransitionBitEquations := by
  intro a b i hi t1 t2
  have hbit : (transition a b).2.getLsbD i = ((t2 i ^^ b.getLsbD i) ^^ b.getLsbD (i + 26)) :=
    transition_snd_getLsbD a b hi
  refine ⟨rfl, hbit, fun h38 => ?_, fun h47 => ?_, fun h22 => ?_⟩
  · rw [hbit, BitVec.getLsbD_of_ge b (i + 26) (by omega), Bool.xor_false]
  · simp only [t2, decide_eq_false (show ¬ i + 17 < 64 by omega), Bool.false_and, Bool.xor_false]
  · simp only [t1, decide_eq_false (show ¬ 23 ≤ i by omega), Bool.false_and, Bool.xor_false]

/-! ## Linearity -/

theorem xor64_xor (a b c d : Word) : xor64 (a ^^^ c) (b ^^^ d) = xor64 a b ^^^ xor64 c d := by
  simp only [xor64]
  ac_rfl

theorem shl64_xor (a c : Word) (n : Nat) : shl64 (a ^^^ c) n = shl64 a n ^^^ shl64 c n :=
  BitVec.shiftLeft_xor_distrib a c n

theorem shr64_xor (a c : Word) (n : Nat) : shr64 (a ^^^ c) n = shr64 a n ^^^ shr64 c n :=
  BitVec.ushiftRight_xor_distrib a c n

theorem xorshift_xor (a c : Word) : xorshift (a ^^^ c) = xorshift a ^^^ xorshift c := by
  simp only [xorshift, shl64_xor, shr64_xor, xor64_xor]

/-- Settles O23: each primitive of the step is linear. -/
theorem transitionIsLinear : Obligations.TransitionIsLinear := by
  intro a b c d
  refine ⟨rfl, ?_⟩
  simp only [transition, xorshift_xor, shr64_xor, xor64_xor]

/-! ## Corner cases -/

theorem outputs_zero_zero (n : Nat) : outputs n 0 0 = List.replicate n 0 := by
  induction n with
  | zero => rfl
  | succ n ih =>
    have hfix : transition 0 0 = (0, 0) := by decide
    have hout : out64 0 = 0 := by decide
    rw [outputs_succ, hfix, hout, ih, List.replicate_succ]

theorem transition_zero_right (a : Word) : transition a 0 = (0, xorshift a) := by
  simp [transition, xor64, shr64]

theorem transition_zero_left (b : Word) : transition 0 b = (b, b ^^^ (b >>> 26)) := by
  simp [transition, xorshift, xor64, shl64, shr64, shiftC]

/-- Settles O24: the zero cases by the step's equation, the closed values by evaluation. -/
theorem transitionCornerCases : Obligations.TransitionCornerCases := by
  refine ⟨transition_zero_right 0, fun n w hw => ?_, fun _ _ _ => ⟨rfl, rfl⟩, fun _ _ => rfl, transition_zero_right,
    by decide, transition_zero_left, by decide, by decide, by decide⟩
  rw [outputs_zero_zero] at hw
  exact List.eq_of_mem_replicate hw

end Sys2Proof.Machine

/-! # Proofs: what the outputs do not show (43_output_format R106) -/

namespace Sys2Proof.Machine

/-- NEXT's response: the flags decide it and the old S1, which it outputs as the new S0. -/
theorem exec_next_responses {s t : State} (h : exec .next s = .next t) :
    t.responses = s.responses ++ [if s.v0 && s.v1 then ⟨.ok, out64 s.s1⟩ else ⟨.error .unseeded, 0⟩] := by
  rcases withPair_cases ((exec_next s).symm.trans h) with ⟨h0, h1, rfl⟩ | ⟨h0 | h1, rfl⟩
  · simp [h0, h1, transition]
  · simp [h0]
  · simp [h1]

theorem mant52_eq_of_div_eq {w w' : Word} (h : w.toNat / 2 ^ 12 = w'.toNat / 2 ^ 12) : mant52 w = mant52 w' := by
  rw [mant52_eq_ofNat, mant52_eq_ofNat, h]

/-- A command that formats the mantissa of S0 answers the same for any S0 with the same bits 63:12. -/
theorem withS0_mant52_responses {f : Mantissa → Word} {s t u : State} {w : Word}
    (hw : w.toNat / 2 ^ 12 = s.s0.toNat / 2 ^ 12)
    (ht : withS0 s (fun w => respond .ok (f (mant52 w)) s) = .next t)
    (hu : withS0 { s with s0 := w } (fun w' => respond .ok (f (mant52 w')) { s with s0 := w }) = .next u) :
    t.responses = u.responses := by
  rw [withS0_responses (f := fun w => f (mant52 w)) ht, withS0_responses (f := fun w => f (mant52 w)) hu,
    mant52_eq_of_div_eq hw]

/-- Settles O33: MANT, DBL and OUT format the mantissa of S0, NEXT that of S1. -/
theorem lowBitsAreInvisible : Obligations.LowBitsAreInvisible := by
  intro i s t u w ht
  constructor
  · intro hi hw hu
    obtain rfl | rfl | rfl : i = .mant ∨ i = .dbl ∨ i = .out := by simpa using hi
    · exact withS0_mant52_responses (f := zext64) hw ht hu
    · exact withS0_mant52_responses (f := fun m => or64 expOne (zext64 m)) hw ht hu
    · exact withS0_mant52_responses (f := dec64) hw ht hu
  · rintro rfl hw hu
    rw [exec_next_responses ht, exec_next_responses hu, out64, out64, mant52_eq_of_div_eq hw]

end Sys2Proof.Machine

/-! # Proofs: one command and the ports (20_memory R44, R45, 10_state R22, R25, 70_reset_and_hazards R136, R138) -/

namespace Sys2Proof.Machine

/-! ## A command neither reads nor rewrites the traffic at the ports -/

/-- The same engine behind other traffic at its two ports. -/
def State.withPorts (s : State) (input : List HostEvent) (responses : List Response) : State :=
  { s with input := input, responses := responses }

section
variable (s : State) (inp : List HostEvent) (out : List Response)

theorem withS0_ports (result : Word → Word) :
    withS0 (s.withPorts inp out) (fun w => respond .ok (result w) (s.withPorts inp out)) =
      .next (s.withPorts inp (out ++ [if s.v0 then ⟨.ok, result s.s0⟩ else ⟨.error .unseeded, 0⟩])) := by
  cases hv : s.v0 with
  | true => exact withS0_of_valid _ hv
  | false => exact withS0_of_invalid _ hv

theorem withS1_ports (result : Word → Word) :
    withS1 (s.withPorts inp out) (fun w => respond .ok (result w) (s.withPorts inp out)) =
      .next (s.withPorts inp (out ++ [if s.v1 then ⟨.ok, result s.s1⟩ else ⟨.error .unseeded, 0⟩])) := by
  cases hv : s.v1 with
  | true => exact withS1_of_valid _ hv
  | false => exact withS1_of_invalid _ hv

end

theorem withPair_ports (s : State) (result : Word → Word → Word) : ∃ u r, ∀ inp out,
    withPair (s.withPorts inp out)
        (fun a b => respond .ok (result a b) (storePair (transition a b) (s.withPorts inp out))) =
      .next (State.withPorts u inp (out ++ [r])) := by
  by_cases hv : s.v0 = true ∧ s.v1 = true
  · obtain ⟨h0, h1⟩ := hv
    exact ⟨storePair (transition s.s0 s.s1) s, ⟨.ok, result s.s0 s.s1⟩, fun _ _ => withPair_of_valid _ h0 h1⟩
  · have hinvalid : s.v0 = false ∨ s.v1 = false := by simpa [or_iff_not_imp_left] using hv
    exact ⟨s, ⟨.error .unseeded, 0⟩, fun _ _ => withPair_of_invalid _ hinvalid⟩

/-- A command that writes no state answers one response, which does not depend on the traffic at the ports. -/
theorem exec_reading_ports {x : Word} {i : Instr} (s : State) (hi : i ∈ readingCommands x) :
    ∃ r, ∀ inp out, exec i (s.withPorts inp out) = .next (s.withPorts inp (out ++ [r])) := by
  simp only [readingCommands, List.mem_cons, List.not_mem_nil, or_false] at hi
  rcases hi with rfl | rfl | rfl | rfl | rfl | rfl | rfl | rfl
  · exact ⟨_, fun inp out => withS0_ports s inp out id⟩
  · exact ⟨_, fun inp out => withS1_ports s inp out id⟩
  · exact ⟨⟨.ok, statusReg s⟩, fun _ _ => exec_rdst _⟩
  · exact ⟨_, fun _ _ => withDomain_eq _ _ _⟩
  · exact ⟨_, fun _ _ => withDomain_eq _ _ _⟩
  · exact ⟨_, fun inp out => withS0_ports s inp out fun w => zext64 (mant52 w)⟩
  · exact ⟨_, fun inp out => withS0_ports s inp out dbl64⟩
  · exact ⟨_, fun inp out => withS0_ports s inp out out64⟩

/-- Every command answers a next state, whose words and flags, and the one response appended, do not depend on the
traffic at the ports. -/
theorem exec_ports (i : Instr) (s : State) :
    ∃ u r, ∀ inp out, exec i (s.withPorts inp out) = .next (State.withPorts u inp (out ++ [r])) := by
  cases i with
  | rd0 | rd1 | rdst | mant | dbl | out => exact ⟨s, exec_reading_ports (x := 0) s (by simp [readingCommands])⟩
  | enc x | dec x => exact ⟨s, exec_reading_ports (x := x) s (by simp [readingCommands])⟩
  | ld0 data => exact ⟨loadS0 data s, _, fun _ _ => exec_ld0 data _⟩
  | ld1 data => exact ⟨loadS1 data s, _, fun _ _ => exec_ld1 data _⟩
  | clr => exact ⟨discard s, _, fun _ _ => exec_clr _⟩
  | step => exact withPair_ports s fun _ _ => 0
  | next => exact withPair_ports s fun a b => out64 (transition a b).1

theorem exec_answers (i : Instr) (s : State) : ∃ t, exec i s = .next t := by
  obtain ⟨u, r, h⟩ := exec_ports i s
  exact ⟨_, h s.input s.responses⟩

/-- Settles O45: the second execution meets the same engine behind one more response. -/
theorem readsAreIdempotent : Obligations.ReadsAreIdempotent := by
  intro x i s t u hi ht hu
  obtain ⟨r, h⟩ := exec_reading_ports s hi
  cases (h s.input s.responses).symm.trans ht
  cases (h s.input (s.responses ++ [r])).symm.trans hu
  exact ⟨r, rfl, by simp [State.withPorts]⟩

/-! ## The frame -/

/-- Settles O40, by everything a command can do. -/
theorem frameOfEveryCommand : Obligations.FrameOfEveryCommand := by
  intro i s t h
  obtain ⟨hin, hresp⟩ := exec_port h
  refine ⟨hin, hresp, ?_⟩
  rcases exec_cases h with ⟨_, rfl⟩ | ⟨_, rfl, -⟩ | ⟨data, rfl, rfl⟩ | ⟨data, rfl, rfl⟩ | ⟨rfl, rfl⟩ |
    ⟨hi, -, -, _, rfl⟩
  case inr.inr.inr.inr.inr => rcases hi with rfl | rfl <;> simp
  all_goals simp

/-- Settles O10, by the equations of the two loads. -/
theorem loadsCommute : Obligations.LoadsCommute := by
  intro s t1 t2 u1 u2 a b ht1 ht2 hu1 hu2
  cases ht1
  cases ht2
  cases hu1
  cases hu2
  exact ⟨rfl, rfl, rfl, rfl⟩

end Sys2Proof.Machine

/-! # Proofs: the steps of the whole machine (00_scope R12, 10_state R25, 70_reset_and_hazards R130, R136) -/

namespace Sys2Proof.Machine

/-! ## Every step answers -/

theorem executeWord_answers (c : CommandWord) (s : State) : ∃ t, executeWord c s = .next t := by
  cases hd : decode c with
  | ok i =>
    rw [executeWord_of_decode s hd]
    exact exec_answers i s
  | error r => exact ⟨_, executeWord_of_reject s hd⟩

theorem step_answers (s : State) : ∃ t, step s = .next t := by
  match hs : s.input with
  | [] => exact ⟨_, step_of_idle hs⟩
  | .reset :: rest => exact ⟨_, step_of_reset hs⟩
  | .command c :: rest =>
    rw [step_of_command hs]
    exact executeWord_answers c _

/-- Settles O39, from the answers of every command and of every event. -/
theorem everyStepAnswers : Obligations.EveryStepAnswers := ⟨step_answers, exec_answers⟩

/-- Settles O37, from what a presented command word does. -/
theorem stepRunsTheDecodedCommand : Obligations.StepRunsTheDecodedCommand := by
  intro s c rest i hin hd
  rw [step_of_command hin, executeWord_of_decode _ hd]

/-- Settles O38, from what a step does with nothing presented. -/
theorem engineHoldsItsStateBetweenCommands : Obligations.EngineHoldsItsStateBetweenCommands :=
  fun _ => step_of_idle

/-! ## Responses -/

/-- The response a command appends is legal: an error comes from `raise`, which carries no result. -/
theorem exec_response_legal {i : Instr} {s t : State} (h : exec i s = .next t) :
    ∃ r, t.responses = s.responses ++ [r] ∧ r.Legal := by
  have legal_ok (d : Word) : Response.Legal ⟨.ok, d⟩ := fun hne => absurd rfl hne
  rcases exec_cases h with ⟨_, rfl⟩ | ⟨_, rfl, -⟩ | ⟨_, -, rfl⟩ | ⟨_, -, rfl⟩ | ⟨-, rfl⟩ | ⟨-, -, -, _, rfl⟩
  case inl => exact ⟨_, rfl, fun _ => rfl⟩
  all_goals exact ⟨_, rfl, legal_ok _⟩

/-- Every command word, reserved or not, leaves the input and is answered by one legal response. -/
theorem executeWord_port {c : CommandWord} {s t : State} (h : executeWord c s = .next t) :
    t.input = s.input ∧ ∃ r, t.responses = s.responses ++ [r] ∧ r.Legal := by
  rcases executeWord_cases h with ⟨i, -, hi⟩ | ⟨_, -, rfl⟩
  · exact ⟨(exec_port hi).1, exec_response_legal hi⟩
  · exact ⟨rfl, _, rfl, fun _ => rfl⟩

/-- What a step does at the ports: it takes no command and answers nothing, or takes one and answers it by one legal
response. -/
theorem step_port_cases {s t : State} (h : step s = .next t) :
    (t.responses = s.responses ∧ pendingCommands t.input = pendingCommands s.input) ∨
      ∃ r, t.responses = s.responses ++ [r] ∧ r.Legal ∧
        pendingCommands t.input + 1 = pendingCommands s.input := by
  rcases step_cases h with ⟨-, rfl⟩ | ⟨rest, hin, rfl⟩ | ⟨c, rest, hin, hc⟩
  · exact .inl ⟨rfl, rfl⟩
  · exact .inl ⟨rfl, by rw [hin]; rfl⟩
  · obtain ⟨hrest, r, hresp, hlegal⟩ := executeWord_port hc
    exact .inr ⟨r, hresp, hlegal, by rw [hrest, hin]; rfl⟩

/-- Settles O46, by what a step does at the ports. -/
theorem oneResponsePerCommand : Obligations.OneResponsePerCommand := by
  intro s t h
  rcases step_port_cases h with ⟨hresp, hpending⟩ | ⟨r, hresp, -, hpending⟩
  · exact ⟨[], by simp [hresp], by simp [hpending], by simp⟩
  · exact ⟨[r], hresp, by simp [← hpending, Nat.add_comm], by simp⟩

/-- Settles O48, by what a step does at the ports. -/
theorem stepKeepsResponsesLegal : Obligations.StepKeepsResponsesLegal := by
  intro s t hs h r hr
  rcases step_port_cases h with ⟨hresp, -⟩ | ⟨new, hresp, hnew, -⟩
  · exact hs r (hresp ▸ hr)
  · rw [hresp, List.mem_append, List.mem_singleton] at hr
    rcases hr with hold | rfl
    · exact hs r hold
    · exact hnew

/-- Settles O49: nothing has been answered at reset. -/
theorem resetResponsesAreLegal : Obligations.ResetResponsesAreLegal := nofun

/-- A command word is executed alike whatever the host presents after it. -/
theorem executeWord_withInput {c : CommandWord} {s t : State} (rest : List HostEvent)
    (h : executeWord c s = .next t) :
    executeWord c { s with input := rest } = .next { t with input := rest } := by
  rcases executeWord_cases h with ⟨i, hd, hi⟩ | ⟨_, hd, rfl⟩
  · obtain ⟨u, r, hu⟩ := exec_ports i s
    rw [executeWord_of_decode _ hd]
    cases (hu s.input s.responses).symm.trans hi
    exact hu rest s.responses
  · exact executeWord_of_reject _ hd

/-- Settles O47, by the event taken. -/
theorem laterEventsDoNotReachAResponse : Obligations.LaterEventsDoNotReachAResponse := by
  intro s t e rest rest' hin h
  cases e with
  | reset =>
    cases (step_of_reset hin).symm.trans h
    exact step_of_reset (s := { s with input := .reset :: rest' }) rfl
  | command c =>
    rw [step_of_command hin] at h
    calc step { s with input := .command c :: rest' }
      _ = executeWord c { s with input := rest' } := step_of_command rfl
      _ = .next { t with input := rest' } := executeWord_withInput (s := { s with input := rest }) rest' h

/-- The event taken is the head of the input, and the rest is still to come. -/
theorem step_input {s t : State} {e : HostEvent} {rest : List HostEvent} (hin : s.input = e :: rest)
    (h : step s = .next t) : t.input = rest := by
  cases e with
  | reset =>
    cases (step_of_reset hin).symm.trans h
    rfl
  | command c => exact (executeWord_port ((step_of_command hin).symm.trans h)).1

/-! ## Flags, event by event -/

section
variable {s t : State} {e : HostEvent} {rest : List HostEvent} (hin : s.input = e :: rest) (h : step s = .next t)
include hin h

/-- An event that is a command is executed as that command. -/
theorem exec_of_is {i : Instr} (he : e.Is i) : exec i { s with input := rest } = .next t := by
  obtain ⟨c, rfl, hd⟩ := he
  rw [← h, step_of_command hin, executeWord_of_decode _ hd]

theorem flags_of_loadsS0 (he : e.LoadsS0) : t.v0 = true ∧ t.v1 = s.v1 := by
  obtain ⟨data, hi⟩ := he
  cases exec_of_is hin h hi
  exact ⟨rfl, rfl⟩

theorem flags_of_loadsS1 (he : e.LoadsS1) : t.v1 = true ∧ t.v0 = s.v0 := by
  obtain ⟨data, hi⟩ := he
  cases exec_of_is hin h hi
  exact ⟨rfl, rfl⟩

theorem flags_of_discards (he : e.Discards) : t.v0 = false ∧ t.v1 = false := by
  rcases he with rfl | hi
  · cases (step_of_reset hin).symm.trans h
    exact ⟨rfl, rfl⟩
  · cases exec_of_is hin h hi
    exact ⟨rfl, rfl⟩

/-- What an event that discards nothing can be: a command that is not CLR, or a word that is answered E_ILLEGAL. -/
theorem step_cases_of_not_discards (hd : ¬ e.Discards) :
    (∃ i, e.Is i ∧ i ≠ .clr ∧ exec i { s with input := rest } = .next t) ∨
      t = raise .illegal { s with input := rest } := by
  cases e with
  | reset => exact absurd (.inl rfl) hd
  | command c =>
    rcases executeWord_cases ((step_of_command hin).symm.trans h) with ⟨i, hi, hexec⟩ | ⟨_, -, ht⟩
    · have his : (HostEvent.command c).Is i := ⟨c, rfl, hi⟩
      exact .inl ⟨i, his, fun hclr => hd (.inr (hclr ▸ his)), hexec⟩
    · exact .inr ht

theorem v0_kept (hl : ¬ e.LoadsS0) (hd : ¬ e.Discards) : t.v0 = s.v0 := by
  rcases step_cases_of_not_discards hin h hd with ⟨i, his, hclr, hexec⟩ | rfl
  · obtain ⟨-, -, -, -, hv0, -⟩ := frameOfEveryCommand i _ t hexec
    exact hv0 (fun data hi => hl ⟨data, hi ▸ his⟩) hclr
  · rfl

theorem v1_kept (hl : ¬ e.LoadsS1) (hd : ¬ e.Discards) : t.v1 = s.v1 := by
  rcases step_cases_of_not_discards hin h hd with ⟨i, his, hclr, hexec⟩ | rfl
  · obtain ⟨-, -, -, -, -, hv1, -⟩ := frameOfEveryCommand i _ t hexec
    exact hv1 (fun data hi => hl ⟨data, hi ▸ his⟩) hclr
  · rfl

end

/-- Settles O42, clause by clause. -/
theorem flagsAreSetAndClearedByTheListedEvents : Obligations.FlagsAreSetAndClearedByTheListedEvents :=
  fun _ _ _ _ hin h => ⟨flags_of_loadsS0 hin h, flags_of_loadsS1 hin h, flags_of_discards hin h, v0_kept hin h,
    v1_kept hin h⟩

/-! ## Flags, over any list of events -/

/-- One of the events is a load and no later one discards, or the flag was `before` and none discards: what O43 says
of either flag. -/
def LoadedSince (loads : HostEvent → Prop) (before : Prop) (events : List HostEvent) : Prop :=
  (∃ pre e post, events = pre ++ e :: post ∧ loads e ∧ ∀ e' ∈ post, ¬ e'.Discards) ∨
    (before ∧ ∀ e' ∈ events, ¬ e'.Discards)

theorem loadedSince_nil (loads : HostEvent → Prop) (before : Prop) : LoadedSince loads before [] ↔ before := by
  simp [LoadedSince]

/-- The first event takes effect on the flag, and the later ones on what it leaves. -/
theorem loadedSince_cons (loads : HostEvent → Prop) (before : Prop) (e : HostEvent) (events : List HostEvent) :
    LoadedSince loads before (e :: events) ↔
      LoadedSince loads (loads e ∨ (before ∧ ¬ e.Discards)) events := by
  constructor
  · rintro (⟨_ | ⟨_, pre⟩, e', post, hsplit, hl, hd⟩ | ⟨hb, hd⟩)
    · obtain ⟨rfl, rfl⟩ := List.cons.inj hsplit
      exact .inr ⟨.inl hl, hd⟩
    · exact .inl ⟨pre, e', post, (List.cons.inj hsplit).2, hl, hd⟩
    · obtain ⟨hde, hd⟩ := List.forall_mem_cons.mp hd
      exact .inr ⟨.inr ⟨hb, hde⟩, hd⟩
  · rintro (⟨pre, e', post, rfl, hl, hd⟩ | ⟨hl | ⟨hb, hde⟩, hd⟩)
    · exact .inl ⟨e :: pre, e', post, rfl, hl, hd⟩
    · exact .inl ⟨[], e, events, rfl, hl, hd⟩
    · exact .inr ⟨hb, List.forall_mem_cons.mpr ⟨hde, hd⟩⟩

/-- After one event a flag is set by a load, or kept where nothing discards. -/
theorem flag_iff_of_step {loads discards : Prop} {old new : Bool} (hload : loads → new = true)
    (hdiscard : discards → new = false) (hkeep : ¬ loads → ¬ discards → new = old) :
    new = true ↔ loads ∨ (old = true ∧ ¬ discards) := by
  by_cases hl : loads
  · simp [hl, hload hl]
  · by_cases hd : discards
    · simp [hl, hd, hdiscard hd]
    · simp [hl, hd, hkeep hl hd]

/-- The induction behind O43: a flag that every step sets, clears or keeps by the event taken. -/
theorem flag_iff_loadedSince {flag : State → Bool} {loads : HostEvent → Prop}
    (hflag : ∀ {s t : State} {e : HostEvent} {rest : List HostEvent}, s.input = e :: rest → step s = .next t →
      (flag t = true ↔ loads e ∨ (flag s = true ∧ ¬ e.Discards)))
    {events rest : List HostEvent} {s t : State} (hin : s.input = events ++ rest)
    (h : Host.Core.run core events.length s = .next t) :
    flag t = true ↔ LoadedSince loads (flag s = true) events := by
  induction events generalizing s with
  | nil =>
    cases h
    exact (loadedSince_nil _ _).symm
  | cons e events ih =>
    obtain ⟨u, hu⟩ := step_answers s
    rw [List.length_cons, run_of_step _ hu] at h
    rw [loadedSince_cons, ← hflag hin hu]
    exact ih (step_input hin hu) h

/-- Settles O43, by the effect of each event and induction over the events. -/
theorem flagMeansLoadedSinceTheLastDiscard : Obligations.FlagMeansLoadedSinceTheLastDiscard := by
  intro events rest s t hin h
  constructor
  · refine flag_iff_loadedSince (flag := State.v0) (loads := HostEvent.LoadsS0) (fun hin h => ?_) hin h
    exact flag_iff_of_step (fun he => (flags_of_loadsS0 hin h he).1) (fun he => (flags_of_discards hin h he).1)
      (v0_kept hin h)
  · refine flag_iff_loadedSince (flag := State.v1) (loads := HostEvent.LoadsS1) (fun hin h => ?_) hin h
    exact flag_iff_of_step (fun he => (flags_of_loadsS1 hin h he).1) (fun he => (flags_of_discards hin h he).2)
      (v1_kept hin h)

/-! ## The state after reset -/

/-- Settles O51: both flags are clear, so no word is compared. -/
theorem resetStateIsUnseeded : Obligations.ResetStateIsUnseeded :=
  ⟨rfl, rfl, rfl, fun _ _ => ⟨rfl, rfl, nofun, nofun, rfl, rfl⟩⟩

end Sys2Proof.Machine
